-- ==== Sys2Proof/Word.lean ====
section
/-! DEFINITION. The types of the values the block's registers hold (00_scope.md R6, 10_state.md R15). Every width is fixed but that of
the high field, the parameter HIGH_WIDTH (93 G1): a high field is an unsigned number, a Nat, and that a register holding one fits its
width is part of the invariant `Safety.MachineInv`. -/

namespace Sys2Proof

/-- CycleSlot: "a fixed 10-slot duty cycle" (R6, R17); ten values, so that 10 to 15 cannot be written down (R17, 93 U4). -/
abbrev Slot := Fin 10

/-- LogicalPosition as the register holds it, two's complement, 8 bits; so is a command's `arg` (R6, R19, R46). -/
abbrev Pos := BitVec 8

/-- A low field, 2 bits: the registers `sl` and `ol` (R20, R22). -/
abbrev LowField := BitVec 2

/-- A command word on the port `cmd`, 12 bits (R32, R44). -/
abbrev CmdWord := BitVec 12

/-- The pulse slot (R6). -/
abbrev PULSE_SLOT : Slot := 0

/-- The last slot of a cycle, from which CycleSlot wraps (R18). -/
abbrev LAST_SLOT : Slot := 9

end Sys2Proof
end

