-- ==== Sys2Proof/Config.lean ====
section
/-! DEFINITION. The parameters of a deployment (00_scope.md R6, R7; the hosts' own in R101, R105, 92 D16, 93 U11), the reference
profiles of R8, and the free values: constants without a body for what the spec leaves open. -/

namespace Sys2Proof

/-- The encoder variant, ENC_MODE: "two variants, pick one per deployment" (R6). -/
inductive EncMode where
  | coarse
  | fine
deriving DecidableEq, Repr

/-- The active controller, HOST_VARIANT (R105). -/
inductive HostVariant where
  | sweep
  | direct
deriving DecidableEq, Repr

/-- How the direct controller loads a position, HOST_LOAD_STYLE (R101). -/
inductive LoadStyle where
  | atomic
  | split
deriving DecidableEq, Repr

/-- Whether the sweep controller's step or the sequencer comes first in a tick, TICK_ORDER (92 D16, R93). -/
inductive TickOrder where
  | controllerFirst
  | sequencerFirst
deriving DecidableEq, Repr

/-- The parameters of a deployment: static, "fixed before reset, never changed by any command" (R6). -/
structure Config where
  /-- ENC_MODE (R6). -/
  encMode : EncMode
  /-- POS_LIMIT (R6). -/
  posLimit : Nat
  /-- BASE_OFFSET, used in COARSE mode (R6). -/
  baseOffset : Nat
  /-- CENTER, used in FINE mode (R6). -/
  center : Nat
  /-- HIGH_WIDTH (R6): "a configuration field defaulting to 8" (93 G1; the 8 is PRESUMED, log 8). -/
  highWidth : Nat := 8
  /-- HOST_VARIANT (R105). -/
  hostVariant : HostVariant
  /-- HOST_LOAD_STYLE (R101). -/
  loadStyle : LoadStyle
  /-- TICK_ORDER (92 D16); the spec's default is `controllerFirst` (R93). -/
  tickOrder : TickOrder
  /-- How many events of one source are kept while its level is masked (93 U11); the spec's default is 1 (R112), 0 loses them. -/
  pendLimit : Nat
deriving DecidableEq, Repr

namespace Config

/-- RAW_WIDTH: HIGH_WIDTH and the two bits of LOW_WIDTH (R6). -/
abbrev rawWidth (c : Config) : Nat := c.highWidth + 2

/-- The width of `oh`: DUTY_WIDTH for the whole coarse duty value, HIGH_WIDTH for the fine high field (R21, log 26). -/
def outWidth (c : Config) : Nat :=
  match c.encMode with
  | .coarse => 8
  | .fine => c.highWidth

/-- The constraints of R7, with R6's two values of POS_LIMIT: a parameter set that breaks one "is not a configuration of this
hardware and a model refuses it". -/
abbrev Valid (c : Config) : Prop :=
  (c.posLimit = 31 ∨ c.posLimit = 125) ∧
  (c.encMode = .coarse → c.posLimit ≤ c.baseOffset ∧ c.baseOffset + c.posLimit ≤ 255) ∧
  (c.encMode = .fine → c.posLimit ≤ c.center ∧ c.center + c.posLimit ≤ 2 ^ c.rawWidth - 1) ∧
  c.posLimit ≤ 127

/-- A position is in range (R14): the contract of R76. -/
abbrev InRange (c : Config) (p : Int) : Prop := -(c.posLimit : Int) ≤ p ∧ p ≤ (c.posLimit : Int)

/-- PROFILE_F of R8, in the direct variant with the spec's defaults (log 2). A test profile: it says nothing of the firmware. -/
def profileF : Config :=
  { encMode := .fine, posLimit := 125, baseOffset := 0, center := 512, highWidth := 8,
    hostVariant := .direct, loadStyle := .split, tickOrder := .controllerFirst, pendLimit := 1 }

/-- PROFILE_C of R8, in the sweep variant with the spec's defaults. A test profile. -/
def profileC : Config :=
  { encMode := .coarse, posLimit := 31, baseOffset := 128, center := 0, highWidth := 8,
    hostVariant := .sweep, loadStyle := .atomic, tickOrder := .controllerFirst, pendLimit := 1 }

end Config

/-! Free values: no body, so no proof can know one (log 5, log 11). -/

/-- Which of the events that wait at one level is served next (R113, 93 U7: "every order admitted"). Applied to the counter
`picks` of State. -/
opaque Config.freeEventOrder : Nat → Nat

/-- Whether a SPLIT load writes the high field first (R101, 93 U8: "both orders admitted"). Applied to `picks`. -/
opaque Config.freeHighFirst : Nat → Bool

/-- What the registers hold at power-on (R30, 93 U5: "any value"). -/
opaque Config.powerOnSlot : Slot
/-- See `Config.powerOnSlot`. -/
opaque Config.powerOnPos : Pos
/-- See `Config.powerOnSlot`. -/
opaque Config.powerOnStoredHigh : Nat
/-- See `Config.powerOnSlot`. -/
opaque Config.powerOnStoredLow : LowField
/-- See `Config.powerOnSlot`. -/
opaque Config.powerOnOutHigh : Nat
/-- See `Config.powerOnSlot`. -/
opaque Config.powerOnOutLow : LowField

end Sys2Proof
end

