-- ==== Sys2Proof/Syntax.lean ====
section
/-! DEFINITION. The command set PSEQ-1: one constructor per row of spec/opcode_table.json (30_encoding.md R45, R48). The reserved
opcodes are constructors of their own, apart from NOP, as R48 and 93 U6 ask. Ignored `arg` bits are no operand: all words of one
such opcode "are the same command" (R47). -/

namespace Sys2Proof

/-- A command. The operand of LOADP and SETPOS is the integer `p = sext(arg)` (R46). -/
inductive Instr where
  | nop
  | tick
  | loadp (p : Int)
  | setpos (p : Int)
  | ench
  | encl
  | init
  | rsvd7
  | rsvd8
  | rsvd9
  | rsvd10
  | rsvd11
  | rsvd12
  | rsvd13
  | rsvd14
  | rsvd15
deriving DecidableEq, Repr

end Sys2Proof
end

