-- ==== Sys2Proof/WellFormed.lean ====
section
/-! DEFINITION. Which commands have an encoding: an operand must fit the 8-bit `arg` (R46: "`p` ranges over -128 to 127").
Whether an operand is within `-POS_LIMIT .. POS_LIMIT` depends on the deployment and is the contract of R76, checked by the
meaning, not here. -/

namespace Sys2Proof

/-- An operand that `arg` can carry (R46). -/
abbrev FitsArg (p : Int) : Prop := -128 ≤ p ∧ p ≤ 127

/-- Well-formed: every operand fits its field (R46). -/
def Instr.wf : Instr → Bool
  | .loadp p => decide (FitsArg p)
  | .setpos p => decide (FitsArg p)
  | .nop => true
  | .tick => true
  | .ench => true
  | .encl => true
  | .init => true
  | .rsvd7 => true
  | .rsvd8 => true
  | .rsvd9 => true
  | .rsvd10 => true
  | .rsvd11 => true
  | .rsvd12 => true
  | .rsvd13 => true
  | .rsvd14 => true
  | .rsvd15 => true

/-- An instruction that has an encoding. -/
abbrev Instr.WellFormed (i : Instr) : Prop := i.wf = true

end Sys2Proof
end

