-- ==== Sys2Proof/Decode.lean ====
section
/-! DEFINITION. Command words: the decoder of R55, the encoder of R53, and the opcode table of R45 as the spec writes it. -/

namespace Sys2Proof

/-- `op = cmd[11:8]` (R44). -/
def opField (w : CmdWord) : BitVec 4 := w.extractLsb' 8 4

/-- `arg = cmd[7:0]` (R44). -/
def argField (w : CmdWord) : BitVec 8 := w.extractLsb' 0 8

/-- Operand assembly, `p = sext(arg)` (R46). -/
def operandOf (w : CmdWord) : Int := (argField w).toInt

/-- The decoder, total on every 12-bit word: "no two commands share a word" and none is illegal (R45, R48, R55). The last arm is
opcode 15 alone, the only value of a 4-bit field that is left. -/
def decode (w : CmdWord) : Instr :=
  match (opField w).toNat with
  | 0 => .nop
  | 1 => .tick
  | 2 => .loadp (operandOf w)
  | 3 => .setpos (operandOf w)
  | 4 => .ench
  | 5 => .encl
  | 6 => .init
  | 7 => .rsvd7
  | 8 => .rsvd8
  | 9 => .rsvd9
  | 10 => .rsvd10
  | 11 => .rsvd11
  | 12 => .rsvd12
  | 13 => .rsvd13
  | 14 => .rsvd14
  | _ => .rsvd15

/-- Why a number is no command word. -/
inductive DecodeError where
  /-- A bit above bit 11 is set: the command port has 12 lines (R32, R44). -/
  | widerThanCommandWord
deriving DecidableEq, Repr

/-- Decode a number as a command word; a number that does not fit the 12-bit port is rejected by name (R36, R44). -/
def decodeNat (n : Nat) : Except DecodeError Instr :=
  if n < 2 ^ 12 then .ok (decode (BitVec.ofNat 12 n)) else .error .widerThanCommandWord

/-- The table's numbering is the word's own: one word, bit 0 the least significant (R9, R44). Bits at or above `nbits` are not part
of the word. -/
def decodeTableWord (nbits w : Nat) : Option Instr :=
  match decodeNat (w % 2 ^ nbits) with
  | .ok i => some i
  | .error _ => none

/-- The operation code of a command (R45). -/
def Instr.opcode : Instr → BitVec 4
  | .nop => 0x0
  | .tick => 0x1
  | .loadp _ => 0x2
  | .setpos _ => 0x3
  | .ench => 0x4
  | .encl => 0x5
  | .init => 0x6
  | .rsvd7 => 0x7
  | .rsvd8 => 0x8
  | .rsvd9 => 0x9
  | .rsvd10 => 0xA
  | .rsvd11 => 0xB
  | .rsvd12 => 0xC
  | .rsvd13 => 0xD
  | .rsvd14 => 0xE
  | .rsvd15 => 0xF

/-- The argument byte the assembler emits: `p mod 256` for LOADP and SETPOS, 0x00 for every other command (R53). -/
def Instr.argByte : Instr → BitVec 8
  | .loadp p => BitVec.ofInt 8 p
  | .setpos p => BitVec.ofInt 8 p
  | .nop => 0
  | .tick => 0
  | .ench => 0
  | .encl => 0
  | .init => 0
  | .rsvd7 => 0
  | .rsvd8 => 0
  | .rsvd9 => 0
  | .rsvd10 => 0
  | .rsvd11 => 0
  | .rsvd12 => 0
  | .rsvd13 => 0
  | .rsvd14 => 0
  | .rsvd15 => 0

/-- The encoder: `cmd = {op, arg}`, the canonical word of a well-formed command (R44, R53). -/
def encode (i : Instr) : CmdWord := i.opcode ++ i.argByte

/-- One row of the opcode table: "a word `w` is the command iff `w & mask == match`" (R45). -/
structure OpcodeRow where
  opcode : BitVec 4
  pattern : CmdWord
  mask : CmdWord
deriving DecidableEq, Repr

/-- The word is of this row (R45). -/
def OpcodeRow.covers (r : OpcodeRow) (w : CmdWord) : Bool := w &&& r.mask == r.pattern

/-- The opcode table: R45's rows, and a row for each reserved opcode as spec/opcode_table.json has them. -/
def opcodeTable : List OpcodeRow :=
  [ ⟨0x0, 0x000, 0xF00⟩, ⟨0x1, 0x100, 0xF00⟩, ⟨0x2, 0x200, 0xF00⟩, ⟨0x3, 0x300, 0xF00⟩,
    ⟨0x4, 0x400, 0xF00⟩, ⟨0x5, 0x500, 0xF00⟩, ⟨0x6, 0x600, 0xF00⟩, ⟨0x7, 0x700, 0xF00⟩,
    ⟨0x8, 0x800, 0xF00⟩, ⟨0x9, 0x900, 0xF00⟩, ⟨0xA, 0xA00, 0xF00⟩, ⟨0xB, 0xB00, 0xF00⟩,
    ⟨0xC, 0xC00, 0xF00⟩, ⟨0xD, 0xD00, 0xF00⟩, ⟨0xE, 0xE00, 0xF00⟩, ⟨0xF, 0xF00, 0xF00⟩ ]

end Sys2Proof
end

