-- ==== Sys2Proof/Machine/State.lean ====
section
/-! DEFINITION. The state of the machine as plain data: the block's six registers (10_state.md R15), the documented host's state
(42_host_sweep.md R81, 44_host_dispatcher.md R110 to R112), the deployment's parameters (R6), and what the outside world is going to
do (20_memory.md R32); the reasons a step can stop; reset and power-on. -/

namespace Sys2Proof.Machine

/-- The registers of PSEQ (R15), and whether they have ever been reset. -/
structure Block where
  /-- CycleSlot (R17). -/
  slot : Slot
  /-- LogicalPosition, two's complement (R19). -/
  pos : Pos
  /-- Stored high field, an unsigned number of HIGH_WIDTH bits; exists in FINE mode only (R20, log 3). -/
  sh : Nat
  /-- Stored low field, 2 bits; exists in FINE mode only (R20, log 3). -/
  sl : LowField
  /-- Output register, whole duty value or high field, an unsigned number of `Config.outWidth` bits (R21, log 26). -/
  oh : Nat
  /-- Output register, low field, 2 bits (R22). -/
  ol : LowField
  /-- The model's own field: reset or initialised since power-on (R30, log 5). -/
  live : Bool
deriving DecidableEq, Repr

/-- SweepState (R82). -/
inductive SweepState where
  | stopped
  | singleSweep
  | continuousSweep
deriving DecidableEq, Repr

/-- Direction, a signed unit, +1 or -1 (R84). -/
inductive Direction where
  | up
  | down
deriving DecidableEq, Repr

/-- The sweep controller's four registers (R81). -/
structure Sweep where
  state : SweepState
  /-- SweepSpeed, a divisor: 10 or 5 (R83). -/
  speed : Nat
  dir : Direction
  /-- The step counter: ticks since the last position step (R84). -/
  n : Nat
deriving DecidableEq, Repr

/-- The abstract events of the dispatcher: "exactly three" (R105). -/
inductive Event where
  | tick
  | buttonA
  | buttonB
deriving DecidableEq, Repr

/-- The two priority levels of the host (R110). -/
inductive Level where
  | high
  | low
deriving DecidableEq, Repr

/-- How many events of each source wait to be served (R112). -/
structure Pending where
  tick : Nat
  buttonA : Nat
  buttonB : Nat
deriving DecidableEq, Repr

/-- The documented host: the active controller's registers and the dispatcher. A handler in progress is the list of the commands it
has still to issue (R110). -/
structure HostState where
  /-- `initialize()` has run, and events are let through (R106, R135, log 13). -/
  up : Bool
  sweep : Sweep
  pend : Pending
  /-- The rest of the HIGH handler in progress; empty: none runs. -/
  high : List Instr
  /-- The rest of the LOW handler in progress, perhaps pre-empted; empty: none runs. -/
  low : List Instr
deriving DecidableEq, Repr

/-- The input ports at one clock edge (R32). -/
structure Edge where
  rst : Bool
  cmdValid : Bool
  cmd : CmdWord
deriving DecidableEq, Repr

/-- What the outside world does at one step (log 9). -/
inductive Input where
  /-- The ports are driven from outside the documented host: reset, a command of any issuer, or an idle edge (R4, R32). -/
  | port (e : Edge)
  /-- An event source fires; the event reaches the dispatcher (R105, R120). -/
  | event (e : Event)
  /-- Nothing arrives; the host does its next thing (R110). -/
  | quiet
deriving DecidableEq, Repr

/-- The machine. -/
structure State where
  /-- The deployment's parameters; no step changes them (R6, log 1). -/
  cfg : Config
  block : Block
  host : HostState
  /-- The coming inputs, first first; when the list is empty every step is quiet (log 9). -/
  inputs : List Input
  /-- The model's own counter, to which the free values for the open orders are applied (log 11). -/
  picks : Nat
deriving DecidableEq, Repr

/-- The reasons to stop with a fault: none. "No command of the block raises an exception, trap or fault" (R117). -/
inductive Fault where
deriving DecidableEq, Repr

/-- The reasons to give a step no meaning. All three of the model's own err toward unprovable (safe); the hardware itself raises
nothing in these cases (R119). -/
inductive Refusal where
  /-- An instruction without a meaning yet; raised by exec's arms only. Safe. -/
  | notModelled (mnemonic : String)
  /-- A command other than INIT before the first reset (R30, U5). Raised by every meaning but INIT's. Safe. -/
  | neverReset
  /-- A position outside `-POS_LIMIT .. POS_LIMIT` given by LOADP or SETPOS, or about to be encoded from `pos` (R76, U1). Raised by
  LOADP, SETPOS, ENCH, ENCL and TICK. Safe. -/
  | positionOutOfRange
  /-- The parameters break R7 and are "not a configuration of this hardware" (U3). Raised by every meaning and by the step. Safe. -/
  | notThisHardware
deriving DecidableEq, Repr

/-- The block right after reset, whatever it held before: "slot = 0; pos = 0; in FINE mode ... sh = CENTER >> 2, sl = CENTER & 0b11;
oh = 0; ol = 0" (R29). In COARSE mode the stored fields do not exist; their place holds 0 (log 3). -/
def Block.afterReset (c : Config) : Block :=
  { slot := 0
    pos := 0
    sh := if c.encMode = .fine then c.center >>> 2 else 0
    sl := if c.encMode = .fine then BitVec.ofNat 2 (c.center &&& 3) else 0
    oh := 0
    ol := 0
    live := true }

/-- The sweep controller after `initialize()` (R85). `speed` and `dir` are open there; "a model leaves them unspecified or takes
`+1` and `10`" (log 4). -/
def Sweep.initial : Sweep := { state := .stopped, speed := 10, dir := .up, n := 0 }

/-- No event waits. -/
def Pending.none : Pending := { tick := 0, buttonA := 0, buttonB := 0 }

/-- The host after `initialize()`, with nothing going on (log 10, log 12, log 13). In the direct variant the sweep controller's registers
are absent (R97); their place holds `Sweep.initial` and nothing there reads or writes it (log 24). -/
def HostState.initial : HostState :=
  { up := true, sweep := Sweep.initial, pend := Pending.none, high := [], low := [] }

/-- The machine after reset under the parameters `c` (R29, R135). -/
def State.resetWith (c : Config) : State :=
  { cfg := c, block := Block.afterReset c, host := HostState.initial, inputs := [], picks := 0 }

/-- The machine after reset. The spec leaves the parameters open; the ones here are its reference profile (R8, log 2). -/
def State.reset : State := State.resetWith Config.profileF

/-- The machine at power-on under the parameters `c`: every register of the block holds any value, and nothing has been initialised
(R30, R132). -/
def State.powerOn (c : Config) : State :=
  { cfg := c
    block :=
      { slot := Config.powerOnSlot, pos := Config.powerOnPos, sh := Config.powerOnStoredHigh % 2 ^ c.highWidth,
        sl := Config.powerOnStoredLow, oh := Config.powerOnOutHigh % 2 ^ c.outWidth, ol := Config.powerOnOutLow, live := false }
    host := { HostState.initial with up := false }
    inputs := []
    picks := 0 }

end Sys2Proof.Machine
end

