-- ==== Sys2Proof/Machine/Flags.lean ====
section
/-! DEFINITION. "The block has no flag, condition code or predicate" (10_state.md R25): there is no flag computation to write. What
stands here are the conditions the spec itself names: the two tests TICK makes on CycleSlot (R61), and the torn state (R14, R78),
which no register records. -/

namespace Sys2Proof.Machine

/-- `slot == 0`: this tick renders the pulse slot (R61). -/
def isPulseSlot (s : Slot) : Bool := s == PULSE_SLOT

/-- `slot == 9`: the advance wraps (R61). -/
def isLastSlot (s : Slot) : Bool := s == LAST_SLOT

end Sys2Proof.Machine
end

