-- ==== Sys2Proof/Machine/Operands.lean ====
section
/-! DEFINITION. The duty-cycle encoder as pure functions (41_encoder.md R67 to R69) and the operand of LOADP and SETPOS on its way
into `pos` (30_encoding.md R46). -/

namespace Sys2Proof.Machine

/-- `Encode(p)`, a mathematical integer: `BASE_OFFSET + p` in COARSE mode, `CENTER + p` in FINE mode (R67). -/
def encodeDuty (c : Config) (p : Int) : Int :=
  match c.encMode with
  | .coarse => (c.baseOffset : Int) + p
  | .fine => (c.center : Int) + p

/-- `High(raw) = raw >> 2`, which fits HIGH_WIDTH bits for every `raw` of RAW_WIDTH bits (R68). -/
def highOf (raw : Nat) : Nat := raw >>> 2

/-- `Low(raw) = raw & 0b11`, 2 bits (R68). -/
def lowOf (raw : Nat) : LowField := BitVec.ofNat 2 (raw &&& 3)

/-- `Fields(raw)`, the source's `toFields()` (R68). -/
def fieldsOf (raw : Nat) : Nat × LowField := (highOf raw, lowOf raw)

/-- `Raw(h, l) = (h << 2) | l`, the source's `fromFields()` (R69). -/
def rawOf (h : Nat) (l : LowField) : Nat := (h <<< 2) ||| l.toNat

/-- The whole coarse duty value as the 8-bit output register takes it, `Encode(p)[7:0]` (R51, R61). -/
def dutyOf (duty : Nat) : Nat := duty % 2 ^ 8

/-- The raw duty value of a position as a natural number; within contract `Encode(p)` is never negative (R67). -/
def dutyNat (c : Config) (p : Int) : Nat := (encodeDuty c p).toNat

/-- The position register's pattern for an integer operand, bit for bit `arg` (R46). -/
def posOf (p : Int) : Pos := BitVec.ofInt 8 p

/-- `int(pos)` (R9). -/
def Block.intPos (b : Block) : Int := b.pos.toInt

/-- The stored pair is not the encoding of the position: a torn state, a notion of FINE mode (R14, R78). -/
abbrev torn (c : Config) (b : Block) : Prop := (b.sh, b.sl) ≠ fieldsOf (dutyNat c b.intPos)

end Sys2Proof.Machine
end

