-- ==== Sys2Proof/Machine/Ops.lean ====
section
/-! DEFINITION. The named operations over the registers, and the three checks every meaning is built from. The block has no memory
(20_memory.md R31) and takes no exception (60_exceptions.md R117): there is no memory operation and no exception entry here. What
the spec has in the place of an exception entry, the host taking an event, is one shared operation in Machine/Dispatcher.lean. -/

namespace Sys2Proof.Machine

/-- What a step answers. -/
abbrev Result := Host.Outcome State Fault Refusal

/-- Replace the block's registers. -/
def State.withBlock (s : State) (b : Block) : State := { s with block := b }

/-- Replace the host's state. -/
def State.withHost (s : State) (h : HostState) : State := { s with host := h }

/-- Replace the coming inputs. -/
def State.withInputs (s : State) (is : List Input) : State := { s with inputs := is }

/-- `pos <- p` (R71, R72). -/
def Block.setPos (b : Block) (p : Pos) : Block := { b with pos := p }

/-- `slot <- v`. -/
def Block.setSlot (b : Block) (v : Slot) : Block := { b with slot := v }

/-- `sh <- h` (R73). -/
def Block.setStoredHigh (b : Block) (h : Nat) : Block := { b with sh := h }

/-- `sl <- l` (R74). -/
def Block.setStoredLow (b : Block) (l : LowField) : Block := { b with sl := l }

/-- `oh <- h`. -/
def Block.setOutHigh (b : Block) (h : Nat) : Block := { b with oh := h }

/-- `ol <- l`. -/
def Block.setOutLow (b : Block) (l : LowField) : Block := { b with ol := l }

/-- Both output registers at once (R35). -/
def Block.setOut (b : Block) (h : Nat) (l : LowField) : Block := (b.setOutHigh h).setOutLow l

/-- A high field and its write-through (R73). -/
def Block.writeHigh (b : Block) (h : Nat) : Block := (b.setStoredHigh h).setOutHigh h

/-- A low field and its write-through (R74). -/
def Block.writeLow (b : Block) (l : LowField) : Block := (b.setStoredLow l).setOutLow l

/-- The slot after `v`: `(slot == 9) ? 0 : slot + 1` (R18, R61). -/
def nextSlot (v : Slot) : Slot := if isLastSlot v then 0 else v + 1

/-- Advance the cycle by one slot (R61). -/
def Block.advance (b : Block) : Block := b.setSlot (nextSlot b.slot)

/-- The assignments of INIT and of reset (R29, R63). In COARSE mode the stored fields do not exist; their place holds 0 (log 3). -/
def resetBlock (c : Config) : Block :=
  { slot := 0
    pos := 0
    sh := if c.encMode = .fine then highOf (dutyNat c 0) else 0
    sl := if c.encMode = .fine then lowOf (dutyNat c 0) else 0
    oh := 0
    ol := 0
    live := true }

/-- Go on only under a parameter set of this hardware (R7, U3). -/
def configured (s : State) (k : Result) : Result :=
  if s.cfg.Valid then k else .refused .notThisHardware

/-- Go on only in a block that has been reset or initialised (R30, U5). -/
def inService (s : State) (k : Result) : Result :=
  configured s (if s.block.live then k else .refused .neverReset)

/-- Encode a position that is within contract; an out-of-range position has no meaning, "it must not substitute a clamped or truncated
value" (R76, U1). -/
def encoded (s : State) (p : Int) (k : Nat → Result) : Result :=
  if s.cfg.InRange p then k (dutyNat s.cfg p) else .refused .positionOutOfRange

/-- A command without an effect (R48, R60). -/
def noEffect (s : State) : Result := inService s (.next s)

/-- The state after INIT, and equally after `rst` (R29, R133, R134). -/
def resetTo (s : State) : Result := configured s (.next (s.withBlock (resetBlock s.cfg)))

end Sys2Proof.Machine
end

