-- ==== Sys2Proof/Machine/Encoder.lean ====
section
/-! DEFINITION. The encoder's commands (41_encoder.md): LOADP, SETPOS, ENCH, ENCL. -/

namespace Sys2Proof.Machine

/-- LOADP p: `pos`, and in FINE mode both stored fields and both outputs, in one step, all from the same position (R71). COARSE mode:
"nothing else; oh and ol keep their values" (R71, R75). -/
def execLoadp (p : Int) (s : State) : Result :=
  inService s (encoded s p fun raw =>
    match s.cfg.encMode with
    | .coarse => .next (s.withBlock (s.block.setPos (posOf p)))
    | .fine => .next (s.withBlock (((s.block.setPos (posOf p)).writeHigh (highOf raw)).writeLow (lowOf raw))))

/-- SETPOS p: `pos <- p`, nothing else in either mode (R72, R75). -/
def execSetpos (p : Int) (s : State) : Result :=
  inService s (encoded s p fun _ => .next (s.withBlock (s.block.setPos (posOf p))))

/-- ENCH: the high field of `pos`, stored and written through, in FINE mode; no effect in COARSE mode (R73, R75). -/
def execEnch (s : State) : Result :=
  inService s (
    match s.cfg.encMode with
    | .coarse => .next s
    | .fine => encoded s s.block.intPos fun raw => .next (s.withBlock (s.block.writeHigh (highOf raw))))

/-- ENCL: the low field of `pos`, stored and written through, in FINE mode; no effect in COARSE mode (R74, R75). -/
def execEncl (s : State) : Result :=
  inService s (
    match s.cfg.encMode with
    | .coarse => .next s
    | .fine => encoded s s.block.intPos fun raw => .next (s.withBlock (s.block.writeLow (lowOf raw))))

end Sys2Proof.Machine
end

