-- ==== Sys2Proof/Machine/Sequencer.lean ====
section
/-! DEFINITION. The sequencer's commands (40_sequencer.md): NOP, TICK, INIT, and the reserved opcodes. -/

namespace Sys2Proof.Machine

/-- NOP: "no register is read or written" (R60). -/
def execNop (s : State) : Result := noEffect s

/-- TICK (R61). At the pulse slot the outputs take the duty value: in COARSE mode the encoding of `pos` as it is now, in FINE mode
the stored pair as it stands, torn or not (R58, R62(d)). At every other slot both outputs take zero (R59). The slot tested is the old
one, and it advances in the same step. -/
def execTick (s : State) : Result :=
  inService s (
    if isPulseSlot s.block.slot then
      match s.cfg.encMode with
      | .coarse => encoded s s.block.intPos fun duty => .next (s.withBlock (s.block.setOut (dutyOf duty) 0).advance)
      | .fine => .next (s.withBlock (s.block.setOut s.block.sh s.block.sl).advance)
    else .next (s.withBlock (s.block.setOut 0 0).advance))

/-- INIT: the state of reset, "the one command accepted in a never-reset state" (R63). -/
def execInit (s : State) : Result := resetTo s

/-- RSVD 7: "changes no state and raises nothing; it behaves as NOP" (R48). -/
def execRsvd7 (s : State) : Result := noEffect s
/-- RSVD 8 (R48). -/
def execRsvd8 (s : State) : Result := noEffect s
/-- RSVD 9 (R48). -/
def execRsvd9 (s : State) : Result := noEffect s
/-- RSVD 10 (R48). -/
def execRsvd10 (s : State) : Result := noEffect s
/-- RSVD 11 (R48). -/
def execRsvd11 (s : State) : Result := noEffect s
/-- RSVD 12 (R48). -/
def execRsvd12 (s : State) : Result := noEffect s
/-- RSVD 13 (R48). -/
def execRsvd13 (s : State) : Result := noEffect s
/-- RSVD 14 (R48). -/
def execRsvd14 (s : State) : Result := noEffect s
/-- RSVD 15 (R48). -/
def execRsvd15 (s : State) : Result := noEffect s

end Sys2Proof.Machine
end

