-- ==== Sys2Proof/Machine/Dispatch.lean ====
section
/-! DEFINITION. The meaning of each command, one arm per constructor of Instr. -/

namespace Sys2Proof.Machine

def exec (i : Instr) (s : State) : Host.Outcome State Fault Refusal :=
  match i with
  | .nop => Sys2Proof.Machine.execNop s
  | .tick => Sys2Proof.Machine.execTick s
  | .loadp p => Sys2Proof.Machine.execLoadp p s
  | .setpos p => Sys2Proof.Machine.execSetpos p s
  | .ench => Sys2Proof.Machine.execEnch s
  | .encl => Sys2Proof.Machine.execEncl s
  | .init => Sys2Proof.Machine.execInit s
  | .rsvd7 => Sys2Proof.Machine.execRsvd7 s
  | .rsvd8 => Sys2Proof.Machine.execRsvd8 s
  | .rsvd9 => Sys2Proof.Machine.execRsvd9 s
  | .rsvd10 => Sys2Proof.Machine.execRsvd10 s
  | .rsvd11 => Sys2Proof.Machine.execRsvd11 s
  | .rsvd12 => Sys2Proof.Machine.execRsvd12 s
  | .rsvd13 => Sys2Proof.Machine.execRsvd13 s
  | .rsvd14 => Sys2Proof.Machine.execRsvd14 s
  | .rsvd15 => Sys2Proof.Machine.execRsvd15 s

end Sys2Proof.Machine
end

