-- ==== Sys2Proof/Machine/Ports.lean ====
section
/-! DEFINITION. The ports (20_memory.md R32, R33) and the observation of a run (00_scope.md R12). -/

namespace Sys2Proof.Machine

/-- Port `pwm_h`: `oh`, read by the PWM sink (R33). -/
def pwmH (s : State) : Nat := s.block.oh

/-- Port `pwm_l`: `ol`, read by the PWM sink (R33). -/
def pwmL (s : State) : LowField := s.block.ol

/-- Port `pos_q`: `pos`, read by the host's controllers (R33). -/
def posQ (s : State) : Pos := s.block.pos

/-- Port `slot_q`: `slot` on four lines, for test and observation (R33). -/
def slotQ (s : State) : BitVec 4 := BitVec.ofNat 4 s.block.slot.val

/-- What is observable after a command: "the sequence of values of `(oh, ol)` after each executed command, together with `pos` and
`slot`" (R12). The stored fields have no port (R26, R33). -/
structure Observation where
  pwmH : Nat
  pwmL : LowField
  posQ : Pos
  slotQ : BitVec 4
deriving DecidableEq, Repr

/-- The output ports at a state (R33). -/
def observe (s : State) : Observation :=
  { pwmH := pwmH s, pwmL := pwmL s, posQ := posQ s, slotQ := slotQ s }

/-- One rising clock edge: `rst` wins and `cmd_valid` is then ignored; else a valid word is executed as one command; else "the state
does not change" (R32, R133). -/
def onEdge (e : Edge) (s : State) : Result :=
  if e.rst then resetTo s
  else if e.cmdValid then exec (decode e.cmd) s
  else .next s

/-- Commands taken one after another, each completely before the next, up to the first that has no meaning (R39). -/
def execs : List Instr → State → Result
  | [], s => .next s
  | i :: is, s =>
    match exec i s with
    | .next t => execs is t
    | .fault f => .fault f
    | .refused r => .refused r

/-- The observation of a run: the ports after each executed command (R12). -/
def observeRun : List Instr → State → List Observation
  | [], _ => []
  | i :: is, s =>
    match exec i s with
    | .next t => observe t :: observeRun is t
    | .fault _ => []
    | .refused _ => []

end Sys2Proof.Machine
end

