-- ==== Sys2Proof/Machine/DirectHost.lean ====
section
/-! DEFINITION. The Direct Position Controller, the controller of the direct variant (43_host_direct.md). It has no registers of its
own (R97). -/

namespace Sys2Proof.Machine

/-- `clamp(v, lo, hi)` (R10). -/
def clamp (v lo hi : Int) : Int := if v < lo then lo else if hi < v then hi else v

/-- `load q` (R101): one LOADP, or SETPOS and the two field commands in the order given. -/
def loadCommands (style : LoadStyle) (highFirst : Bool) (q : Int) : List Instr :=
  match style with
  | .atomic => [.loadp q]
  | .split => if highFirst then [.setpos q, .ench, .encl] else [.setpos q, .encl, .ench]

/-- `place(p)`: no clamp, the caller keeps the range (R98). -/
def placeCommands (p : Int) : List Instr := [.loadp p]

/-- The target of `move(delta)`: an exact integer sum, then saturation to the direct range (R97, R99, R102). -/
def moveTarget (pos delta : Int) : Int := clamp (pos + delta) (-125) 125

/-- `move(delta)` from the position read at `pos_q` (R99). -/
def moveCommands (style : LoadStyle) (highFirst : Bool) (pos delta : Int) : List Instr :=
  loadCommands style highFirst (moveTarget pos delta)

/-- The position after `k` moves of the same `delta` (R103). -/
def moves (delta : Int) : Nat → Int → Int
  | 0, pos => pos
  | k + 1, pos => moves delta k (moveTarget pos delta)

end Sys2Proof.Machine
end

