-- ==== Sys2Proof/Machine/SweepHost.lean ====
section
/-! DEFINITION. The Sweep State Machine, the controller of the sweep variant (42_host_sweep.md): functions of its own registers and of
the position it reads at `pos_q`. -/

namespace Sys2Proof.Machine

/-- "The sign added to LogicalPosition on each qualifying tick" (R84). -/
def Direction.sign : Direction → Int
  | .up => 1
  | .down => -1

/-- Button A (R86, R87): starts a single sweep from Stopped, turns a continuous sweep into a single one, else nothing. -/
def Sweep.onButtonA (w : Sweep) : Sweep :=
  match w.state with
  | .stopped => { w with speed := 10, dir := .up, state := .singleSweep }
  | .continuousSweep => { w with state := .singleSweep }
  | .singleSweep => w

/-- Button B (R86, R87): starts a continuous sweep from Stopped, toggles the speed of a continuous sweep, else nothing. -/
def Sweep.onButtonB (w : Sweep) : Sweep :=
  match w.state with
  | .stopped => { w with speed := 10, dir := .up, state := .continuousSweep }
  | .continuousSweep => { w with speed := if w.speed = 10 then 5 else 10 }
  | .singleSweep => w

/-- The position step of a qualifying tick (R88): the sum is clamped to "the constants `+31` and `-31` of the source whatever
`POS_LIMIT` is", and the bound's action fires when the sum leaves
the range (the strict reading, R92). A single sweep stops at the negative bound and keeps its direction; a continuous one turns
(R89, R90, R94). Gives the position to load. -/
def Sweep.positionStep (w : Sweep) (pos : Int) : Sweep × Int :=
  let q := pos + w.dir.sign
  if 31 < q then ({ w with n := 0, dir := .down }, 31)
  else if q < -31 then
    match w.state with
    | .singleSweep => ({ w with n := 0, state := .stopped }, -31)
    | .continuousSweep => ({ w with n := 0, dir := .up }, -31)
    | .stopped => ({ w with n := 0 }, -31)
  else ({ w with n := 0 }, q)

/-- SweepTick (R88): nothing in Stopped; else count, and on a qualifying tick (the incremented `n` has reached `speed`) take a
position step. Gives the position to load, if any. -/
def Sweep.onTick (w : Sweep) (pos : Int) : Sweep × Option Int :=
  match w.state with
  | .stopped => (w, none)
  | .singleSweep | .continuousSweep =>
    if w.n + 1 < w.speed then ({ w with n := w.n + 1 }, none)
    else ((w.positionStep pos).1, some (w.positionStep pos).2)

/-- The commands of EV_TICK: the controller's load, if any, and one TICK (R93, R107), in the order TICK_ORDER says (92 D16). -/
def tickCommands (order : TickOrder) (load : Option Int) : List Instr :=
  match order with
  | .controllerFirst => (load.map Instr.loadp).toList ++ [.tick]
  | .sequencerFirst => .tick :: (load.map Instr.loadp).toList

/-- The sweep controller and the position it commands, over `k` ticks: the host's side of a run in which nothing but ticks happens
and every load reaches the block (R95). -/
def Sweep.ticks : Nat → Sweep × Int → Sweep × Int
  | 0, x => x
  | k + 1, x => Sweep.ticks k ((x.1.onTick x.2).1, (x.1.onTick x.2).2.getD x.2)

end Sys2Proof.Machine
end

