-- ==== Sys2Proof/Machine/Dispatcher.lean ====
section
/-! DEFINITION. The host's Event Dispatcher and its two priority levels (44_host_dispatcher.md): an event's arrival, taking an event
(the one shared entry of a handler), the handlers, and what the host does when it is its turn. Returning from a handler is the end of
its list of commands: "every handler runs to completion and returns", and nothing is restored (60_exceptions.md R123, R124). -/

namespace Sys2Proof.Machine

/-- The priority of an event by variant (R111). -/
def level (v : HostVariant) (e : Event) : Level :=
  match v, e with
  | .sweep, .tick => .high
  | .sweep, .buttonA => .high
  | .sweep, .buttonB => .high
  | .direct, .tick => .high
  | .direct, .buttonA => .low
  | .direct, .buttonB => .low

/-- How many events of a source wait (R112). -/
def Pending.count (p : Pending) : Event → Nat
  | .tick => p.tick
  | .buttonA => p.buttonA
  | .buttonB => p.buttonB

/-- Write a source's count. -/
def Pending.setCount (p : Pending) (e : Event) (k : Nat) : Pending :=
  match e with
  | .tick => { p with tick := k }
  | .buttonA => { p with buttonA := k }
  | .buttonB => { p with buttonB := k }

/-- A level is masked "while a handler of its own level, or of the higher level, runs" (R121), and before `initialize()` (R135). -/
def HostState.masked (h : HostState) : Level → Bool
  | .high => !h.up || !h.high.isEmpty
  | .low => !h.up || !h.high.isEmpty || !h.low.isEmpty

/-- A source's count after one more event: kept up to `pendLimit` while the level is masked (R112, 93 U11). While the level is free at
least the one that it is going to take is kept; a further event of the source that comes before the first is taken is kept up to
`pendLimit` too and dropped beyond it, which the spec leaves open (log 12). -/
def kept (limit : Nat) (masked : Bool) (waiting : Nat) : Nat :=
  max waiting (min (waiting + 1) (if masked then limit else max limit 1))

/-- An event reaches the dispatcher (R105). No register of the block moves: the block "cannot tell that one happened" (R123). -/
def arrive (e : Event) (s : State) : State :=
  s.withHost { s.host with
    pend := s.host.pend.setCount e
      (kept s.cfg.pendLimit (s.host.masked (level s.cfg.hostVariant e)) (s.host.pend.count e)) }

/-- The events that wait at a level. -/
def waiting (s : State) (l : Level) : List Event :=
  [Event.tick, Event.buttonA, Event.buttonB].filter fun e =>
    decide (level s.cfg.hostVariant e = l) && decide (0 < s.host.pend.count e)

/-- What settles the two open orders at one taking of an event: a free value each (R101, R113). -/
structure Pick where
  /-- Which of the waiting events is served (R113). -/
  event : Nat
  /-- Whether a SPLIT load writes the high field first (R101). -/
  highFirst : Bool
deriving DecidableEq, Repr

/-- One of the events that wait together, any of them (R113). -/
def choose (k : Nat) (e : Event) (es : List Event) : Event :=
  match es with
  | [] => e
  | _ :: _ => (e :: es).getD (k % (es.length + 1)) e

/-- The handler of an event (R107 to R109): the controller's registers after it, and the commands it issues. The handler reads
`pos_q` once, at its start (R104(b)). -/
def handler (highFirst : Bool) (s : State) (e : Event) : Sweep × List Instr :=
  match s.cfg.hostVariant, e with
  | .sweep, .tick =>
    ((s.host.sweep.onTick (posQ s).toInt).1,
      tickCommands s.cfg.tickOrder (s.host.sweep.onTick (posQ s).toInt).2)
  | .sweep, .buttonA => (s.host.sweep.onButtonA, [])
  | .sweep, .buttonB => (s.host.sweep.onButtonB, [])
  | .direct, .tick => (s.host.sweep, [.tick])
  | .direct, .buttonA => (s.host.sweep, moveCommands s.cfg.loadStyle highFirst (posQ s).toInt 10)
  | .direct, .buttonB => (s.host.sweep, moveCommands s.cfg.loadStyle highFirst (posQ s).toInt (-10))

/-- Put a handler's commands where its level runs. -/
def HostState.start (h : HostState) (l : Level) (cmds : List Instr) : HostState :=
  match l with
  | .high => { h with high := cmds }
  | .low => { h with low := cmds }

/-- Taking an event (R105, R123): the source is acknowledged, the handler's host computation is done, and its commands are ready to be
issued. No command is issued at the entry itself, and no register of the block is saved or changed. -/
def takeEvent (p : Pick) (e : Event) (s : State) : State :=
  { s with
    host := ({ s.host with
        pend := s.host.pend.setCount e (s.host.pend.count e - 1)
        sweep := (handler p.highFirst s e).1 }).start
      (level s.cfg.hostVariant e) (handler p.highFirst s e).2
    picks := s.picks + 1 }

/-- The host's own share of `initialize()` (R85, R106). -/
def HostState.initialized (h : HostState) (v : HostVariant) : HostState :=
  match v with
  | .sweep => { h with up := true, sweep := { h.sweep with state := .stopped, n := 0 } }
  | .direct => { h with up := true }

/-- `initialize()`: INIT to the block, and the host's registers; it runs once, before any event is let through (R106, R135). -/
def initializeAll (s : State) : Result := exec .init (s.withHost (s.host.initialized s.cfg.hostVariant))

/-- The host's turn (R110): a HIGH handler in progress goes on; else a waiting HIGH event is taken, pre-empting a LOW handler between
two of its commands; else a LOW handler goes on; else a waiting LOW event is taken; else nothing happens. One command at most. How
many HIGH events are served between two LOW commands is not limited (log 25). -/
def hostMove (p : Pick) (s : State) : Result :=
  if s.host.up then
    match s.host.high with
    | c :: rest => exec c (s.withHost { s.host with high := rest })
    | [] =>
      match waiting s .high with
      | e :: es => .next (takeEvent p (choose p.event e es) s)
      | [] =>
        match s.host.low with
        | c :: rest => exec c (s.withHost { s.host with low := rest })
        | [] =>
          match waiting s .low with
          | e :: es => .next (takeEvent p (choose p.event e es) s)
          | [] => .next s
  else initializeAll s

/-- The free values of this moment: Config's constants at the counter `picks` (log 11). -/
def pickNow (s : State) : Pick :=
  { event := Config.freeEventOrder s.picks, highFirst := Config.freeHighFirst s.picks }

/-- What one input does (R11, R32, R105, R110). -/
def onInput (i : Input) (s : State) : Result :=
  match i with
  | .port e => onEdge e s
  | .event e => .next (arrive e s)
  | .quiet => hostMove (pickNow s) s

end Sys2Proof.Machine
end

