-- ==== Sys2Proof/Machine/Step.lean ====
section
/-! DEFINITION. One step of the whole: the next input, or a quiet step when none is left. -/

namespace Sys2Proof.Machine

/-- One step. A parameter set that breaks R7 is no machine at all (U3). -/
def step (s : State) : Host.Outcome State Fault Refusal :=
  configured s (
    match s.inputs with
    | [] => onInput .quiet s
    | i :: rest => onInput i (s.withInputs rest))

/-- The state in which the next step presents the word on the command port: `cmd_valid` high, `rst` low (R32, R42, log 9). Bits at or
above `nbits` are not part of the word. -/
def State.withFetchWord (s : State) (nbits w : Nat) : State :=
  s.withInputs (.port { rst := false, cmdValid := true, cmd := BitVec.ofNat 12 (w % 2 ^ nbits) } :: s.inputs)

end Sys2Proof.Machine
end

