-- ==== Sys2Proof/Machine/Assembler.lean ====
section
/-! DEFINITION. The textual syntax of R53, over lists of characters: one command per line, a mnemonic in capitals, a decimal operand
for LOADP and SETPOS, `RSVD k` for a reserved opcode, `;` opens a comment. -/

namespace Sys2Proof.Machine

/-- Why a line is no command. -/
inductive AsmError where
  /-- No mnemonic of R53, or a wrong number of words. -/
  | notACommand
  /-- Not a decimal integer with optional sign. -/
  | notANumber
  /-- An operand of LOADP or SETPOS outside -128 to 127. -/
  | operandOutOfField
  /-- A `k` of RSVD outside 7 to 15. -/
  | notReserved
deriving DecidableEq, Repr

/-- The line without its comment (R53). -/
def dropComment (line : List Char) : List Char := line.takeWhile (· ≠ ';')

/-- The words of a line, parted by blanks and tabs (log 20); `acc` is the word being read, backwards. -/
def wordsFrom (acc : List Char) : List Char → List (List Char)
  | [] => if acc.isEmpty then [] else [acc.reverse]
  | c :: cs =>
    if c = ' ' ∨ c = '\t' then
      if acc.isEmpty then wordsFrom [] cs else acc.reverse :: wordsFrom [] cs
    else wordsFrom (c :: acc) cs

/-- The value of a decimal digit. -/
def digitValue (c : Char) : Option Nat :=
  if '0' ≤ c ∧ c ≤ '9' then some (c.toNat - '0'.toNat) else none

/-- The number a nonempty run of digits spells; `acc` is the number read so far. -/
def digitsFrom (acc : Nat) : List Char → Option Nat
  | [] => some acc
  | c :: cs =>
    match digitValue c with
    | some d => digitsFrom (10 * acc + d) cs
    | none => none

/-- A decimal natural number: at least one digit. -/
def parseNat : List Char → Option Nat
  | [] => none
  | c :: cs => digitsFrom 0 (c :: cs)

/-- "A decimal integer with optional sign" (R53). -/
def parseInt (cs : List Char) : Option Int :=
  match cs with
  | '-' :: ds => (parseNat ds).map fun n => -(n : Int)
  | '+' :: ds => (parseNat ds).map fun n => (n : Int)
  | ds => (parseNat ds).map fun n => (n : Int)

/-- A mnemonic that takes no operand (R53). -/
def plainCommand (m : List Char) : Except AsmError Instr :=
  if m = ['N', 'O', 'P'] then .ok .nop
  else if m = ['T', 'I', 'C', 'K'] then .ok .tick
  else if m = ['E', 'N', 'C', 'H'] then .ok .ench
  else if m = ['E', 'N', 'C', 'L'] then .ok .encl
  else if m = ['I', 'N', 'I', 'T'] then .ok .init
  else .error .notACommand

/-- An operand of LOADP or SETPOS: "a decimal integer with optional sign in -128 to 127" (R53). -/
def positionOperand (cs : List Char) : Except AsmError Int :=
  match parseInt cs with
  | none => .error .notANumber
  | some p => if FitsArg p then .ok p else .error .operandOutOfField

/-- The reserved command with opcode `k`, for `k` in 7 to 15 (R53). -/
def reservedCommand (k : Nat) : Except AsmError Instr :=
  match k with
  | 7 => .ok .rsvd7
  | 8 => .ok .rsvd8
  | 9 => .ok .rsvd9
  | 10 => .ok .rsvd10
  | 11 => .ok .rsvd11
  | 12 => .ok .rsvd12
  | 13 => .ok .rsvd13
  | 14 => .ok .rsvd14
  | 15 => .ok .rsvd15
  | _ => .error .notReserved

/-- A mnemonic with one operand (R53). -/
def operandCommand (m arg : List Char) : Except AsmError Instr :=
  if m = ['L', 'O', 'A', 'D', 'P'] then (positionOperand arg).map Instr.loadp
  else if m = ['S', 'E', 'T', 'P', 'O', 'S'] then (positionOperand arg).map Instr.setpos
  else if m = ['R', 'S', 'V', 'D'] then
    match parseNat arg with
    | some k => reservedCommand k
    | none => .error .notANumber
  else .error .notACommand

/-- One line: a command, or nothing (a blank line or a comment alone; R53, log 20). -/
def parseLine (line : List Char) : Except AsmError (Option Instr) :=
  match wordsFrom [] (dropComment line) with
  | [] => .ok none
  | [m] => (plainCommand m).map some
  | [m, arg] => (operandCommand m arg).map some
  | _ :: _ :: _ :: _ => .error .notACommand

/-- The words of a program, in order (R53). -/
def assemble : List (List Char) → Except AsmError (List CmdWord)
  | [] => .ok []
  | line :: lines =>
    match parseLine line with
    | .error e => .error e
    | .ok none => assemble lines
    | .ok (some i) => (assemble lines).map (encode i :: ·)

/-- A decimal digit. -/
def digitChar (d : Nat) : Char := Char.ofNat ('0'.toNat + d)

/-- A number below 1000 in decimal, without leading zeros. -/
def decimal (n : Nat) : List Char :=
  if n < 10 then [digitChar n]
  else if n < 100 then [digitChar (n / 10), digitChar (n % 10)]
  else [digitChar (n / 100), digitChar (n / 10 % 10), digitChar (n % 10)]

/-- An integer with its sign, as R53's examples spell it. -/
def signedDecimal (p : Int) : List Char := if p < 0 then '-' :: decimal p.natAbs else decimal p.natAbs

/-- A command in the syntax of R53. -/
def lineOf : Instr → List Char
  | .nop => ['N', 'O', 'P']
  | .tick => ['T', 'I', 'C', 'K']
  | .loadp p => ['L', 'O', 'A', 'D', 'P', ' '] ++ signedDecimal p
  | .setpos p => ['S', 'E', 'T', 'P', 'O', 'S', ' '] ++ signedDecimal p
  | .ench => ['E', 'N', 'C', 'H']
  | .encl => ['E', 'N', 'C', 'L']
  | .init => ['I', 'N', 'I', 'T']
  | .rsvd7 => ['R', 'S', 'V', 'D', ' ', '7']
  | .rsvd8 => ['R', 'S', 'V', 'D', ' ', '8']
  | .rsvd9 => ['R', 'S', 'V', 'D', ' ', '9']
  | .rsvd10 => ['R', 'S', 'V', 'D', ' ', '1', '0']
  | .rsvd11 => ['R', 'S', 'V', 'D', ' ', '1', '1']
  | .rsvd12 => ['R', 'S', 'V', 'D', ' ', '1', '2']
  | .rsvd13 => ['R', 'S', 'V', 'D', ' ', '1', '3']
  | .rsvd14 => ['R', 'S', 'V', 'D', ' ', '1', '4']
  | .rsvd15 => ['R', 'S', 'V', 'D', ' ', '1', '5']

end Sys2Proof.Machine
end

