-- ==== Sys2Proof/Safety.lean ====
section
/-! DEFINITION. What counts as a safe run, and the invariants claims are stated with: R27 for the block, the host discipline of R116
for the commands a handler has still to issue, and where a torn pair may exist (R78, R141). -/

namespace Sys2Proof.Safety

open Sys2Proof.Machine

/-- The step goes on: no refusal (and no fault, of which there is none). -/
def GoesOn (r : Result) : Prop := ∃ t, r = .next t

/-- A block of this hardware that has been reset (R7, R30): what every command but INIT asks of the state. -/
abbrev Ready (s : State) : Prop := s.cfg.Valid ∧ s.block.live = true

/-- How many commands of a sequence are TICK (R64). -/
def tickCount (cs : List Instr) : Nat := cs.countP (· == .tick)

/-- How many commands of a run are a TICK that executes with `slot == 0` (R64). -/
def pulseTicks : List Instr → State → Nat
  | [], _ => 0
  | i :: is, s =>
    match exec i s with
    | .next t => (if i = .tick ∧ s.block.slot = 0 then 1 else 0) + pulseTicks is t
    | .fault _ => 0
    | .refused _ => 0

/-- The position the last LOADP of a sequence loads, or `p` if it holds none (R66). -/
def lastLoaded (p : Int) : List Instr → Int
  | [] => p
  | .loadp q :: is => lastLoaded q is
  | _ :: is => lastLoaded p is

/-- A sequence of TICK and of LOADP with in-range operands only (R66). -/
def TicksAndLoads (c : Config) (cs : List Instr) : Prop := ∀ i ∈ cs, i = .tick ∨ ∃ p, i = .loadp p ∧ c.InRange p

/-- The command the next step executes, if it executes one: the port's, or the next one of the handler whose turn it is (R32, R110). -/
def issued (s : State) : Option Instr :=
  match s.inputs with
  | .port e :: _ => if e.rst then none else if e.cmdValid then some (decode e.cmd) else none
  | .event _ :: _ => none
  | [] | .quiet :: _ =>
    if s.host.up then
      match s.host.high with
      | c :: _ => some c
      | [] => if (waiting s .high).isEmpty then s.host.low.head? else none
    else some .init

/-- How many of the next `k` steps start in a state with the property. -/
def stepsWith (P : State → Bool) : Nat → State → Nat
  | 0, _ => 0
  | k + 1, s =>
    match step s with
    | .next t => (if P s then 1 else 0) + stepsWith P k t
    | .fault _ => 0
    | .refused _ => 0

/-- The next step executes a TICK. -/
def ticks (s : State) : Bool := issued s == some .tick

/-- The next step executes a TICK that emits a torn pair (R62(d), R78). -/
def emitsTornPulse (s : State) : Bool :=
  ticks s && s.block.slot == 0 && decide (s.cfg.encMode = .fine) && decide (torn s.cfg s.block)

/-- How many commands and events the host has still before it. -/
def backlog (s : State) : Nat :=
  s.host.high.length + s.host.low.length + 4 * (s.host.pend.tick + s.host.pend.buttonA + s.host.pend.buttonB)

/-- The next thing that happens is not a port edge driven from outside the documented host (R43, R116). -/
def HostDriven (s : State) : Prop := ∀ e rest, s.inputs ≠ .port e :: rest

/-- The high registers' values fit their widths (R15, R21). The other registers' widths are their types. -/
structure BlockFits (c : Config) (b : Block) : Prop where
  storedHigh : b.sh < 2 ^ c.highWidth
  outHigh : b.oh < 2 ^ c.outWidth

/-- R27(a) to (d) for one block: the position is in range, the coarse low output is 0, and every output and stored field is zero (the
outputs only) or the encoding of an in-range position. That `slot` is below 10 is its type (R17). -/
structure BlockInv (c : Config) (b : Block) : Prop where
  pos_inRange : c.InRange b.intPos
  coarse_outLow : c.encMode = .coarse → b.ol = 0
  coarse_outHigh : c.encMode = .coarse → b.oh = 0 ∨ ∃ p, c.InRange p ∧ b.oh = dutyOf (dutyNat c p)
  fine_outHigh : c.encMode = .fine → b.oh = 0 ∨ ∃ p, c.InRange p ∧ b.oh = highOf (dutyNat c p)
  fine_outLow : c.encMode = .fine → b.ol = 0 ∨ ∃ p, c.InRange p ∧ b.ol = lowOf (dutyNat c p)
  fine_storedHigh : c.encMode = .fine → ∃ p, c.InRange p ∧ b.sh = highOf (dutyNat c p)
  fine_storedLow : c.encMode = .fine → ∃ p, c.InRange p ∧ b.sl = lowOf (dutyNat c p)

/-- The parameters are this hardware's, the registers fit their widths, and a block that has been reset meets R27. -/
structure MachineInv (s : State) : Prop where
  valid : s.cfg.Valid
  fits : BlockFits s.cfg s.block
  block : s.block.live = true → BlockInv s.cfg s.block

/-- The commands a documented handler issues: no INIT, no reserved command, no out-of-range operand (R116). -/
def HostCommand (c : Config) : Instr → Prop
  | .tick => True
  | .loadp p => c.InRange p
  | .setpos p => c.InRange p
  | .ench => True
  | .encl => True
  | .nop => False
  | .init => False
  | .rsvd7 => False
  | .rsvd8 => False
  | .rsvd9 => False
  | .rsvd10 => False
  | .rsvd11 => False
  | .rsvd12 => False
  | .rsvd13 => False
  | .rsvd14 => False
  | .rsvd15 => False

/-- The sweep controller's registers hold legal values (R81, R96): the speed is 10 or 5, the counter is below 10, and it is 0 in
Stopped. (R81 says `n <= speed - 1` between events; right after a toggle from 10 to 5 it may be larger, R96(a).) -/
structure SweepInv (w : Sweep) : Prop where
  speed : w.speed = 10 ∨ w.speed = 5
  count : w.n < 10
  stopped : w.state = .stopped → w.n = 0

/-- The host keeps its discipline (R116), and is up only over a block that has been reset (R135). -/
structure HostInv (s : State) : Prop where
  high : ∀ i ∈ s.host.high, HostCommand s.cfg i
  low : ∀ i ∈ s.host.low, HostCommand s.cfg i
  sweep : SweepInv s.host.sweep
  up_live : s.host.up = true → s.block.live = true
  down_idle : s.host.up = false → s.host.high = [] ∧ s.host.low = []

/-- The documented range of the direct host goes with POS_LIMIT = 125 (R7, R97). -/
abbrev Paired (c : Config) : Prop := c.hostVariant = .direct → c.posLimit = 125

/-- What may remain of a LOW handler, and what then holds of the stored pair (R78, R141): whole before the SETPOS and after both field
commands, one half new between them. -/
def LowPhase (c : Config) (b : Block) (low : List Instr) : Prop :=
  (low = [] ∧ ¬ torn c b) ∨
  ((∃ q, low = [.loadp q]) ∧ ¬ torn c b) ∨
  ((∃ q, low = [.setpos q, .ench, .encl] ∨ low = [.setpos q, .encl, .ench]) ∧ ¬ torn c b) ∨
  (low = [.ench, .encl] ∨ low = [.encl, .ench]) ∨
  (low = [.ench] ∧ b.sl = lowOf (dutyNat c b.intPos)) ∨
  (low = [.encl] ∧ b.sh = highOf (dutyNat c b.intPos))

/-- What may remain of a HIGH handler: of one TICK, with a load only in the sweep variant (R107, R111). -/
def HighPhase (v : HostVariant) (high : List Instr) : Prop :=
  match v with
  | .direct => high = [] ∨ high = [.tick]
  | .sweep => high = [] ∨ high = [.tick] ∨ ∃ q, high = [.loadp q] ∨ high = [.loadp q, .tick] ∨ high = [.tick, .loadp q]

/-- A torn pair exists only inside a SPLIT load (R78, R141). -/
structure TornInv (s : State) : Prop where
  low : s.block.live = true → s.cfg.encMode = .fine → LowPhase s.cfg s.block s.host.low
  high : HighPhase s.cfg.hostVariant s.host.high
  sweep_low : s.cfg.hostVariant = .sweep → s.host.low = []
  up_live : s.host.up = true → s.block.live = true
  down_idle : s.host.up = false → s.host.high = [] ∧ s.host.low = []

end Sys2Proof.Safety
end

