-- ==== Sys2Proof/Certificates/Slice0/Obligations.lean ====
section
/-! DEFINITION. The statements about the machine, each a Prop; their proofs are written elsewhere. `Ready s` says that the parameters
are this hardware's and that the block has been reset. -/

open Sys2Proof Sys2Proof.Machine Sys2Proof.Safety

/-! ### Command words -/

/-- Decoding the canonical word of a command with an encoding gives it back, with every operand (30_encoding.md section 4). -/
def Obligations.DecodeInvertsEncode : Prop :=
  ∀ i : Instr, i.WellFormed → decode (encode i) = i

/-- R45: a word is the command iff `w & mask == match`, row by row, and each word lies in exactly one row. -/
def Obligations.WordsDecodeByMaskAndMatch : Prop :=
  (∀ w : CmdWord,
    (decode w = .nop ↔ w &&& 0xF00 = 0x000) ∧
    (decode w = .tick ↔ w &&& 0xF00 = 0x100) ∧
    (decode w = .loadp (argField w).toInt ↔ w &&& 0xF00 = 0x200) ∧
    (decode w = .setpos (argField w).toInt ↔ w &&& 0xF00 = 0x300) ∧
    (decode w = .ench ↔ w &&& 0xF00 = 0x400) ∧
    (decode w = .encl ↔ w &&& 0xF00 = 0x500) ∧
    (decode w = .init ↔ w &&& 0xF00 = 0x600) ∧
    (decode w = .rsvd7 ↔ w &&& 0xF00 = 0x700) ∧
    (decode w = .rsvd8 ↔ w &&& 0xF00 = 0x800) ∧
    (decode w = .rsvd9 ↔ w &&& 0xF00 = 0x900) ∧
    (decode w = .rsvd10 ↔ w &&& 0xF00 = 0xA00) ∧
    (decode w = .rsvd11 ↔ w &&& 0xF00 = 0xB00) ∧
    (decode w = .rsvd12 ↔ w &&& 0xF00 = 0xC00) ∧
    (decode w = .rsvd13 ↔ w &&& 0xF00 = 0xD00) ∧
    (decode w = .rsvd14 ↔ w &&& 0xF00 = 0xE00) ∧
    (decode w = .rsvd15 ↔ w &&& 0xF00 = 0xF00)) ∧
  ∀ w : CmdWord, ∃ r ∈ opcodeTable, r.covers w = true ∧ ∀ r' ∈ opcodeTable, r'.covers w = true → r' = r

/-- R47: for every operation but LOADP and SETPOS, `arg` is not read, and the assembler emits 0x00. -/
def Obligations.ArgumentIgnoredWithoutOperand : Prop :=
  (∀ v w : CmdWord, opField v = opField w → opField w ≠ 0x2 → opField w ≠ 0x3 → decode v = decode w) ∧
  ∀ i : Instr, i.opcode ≠ 0x2 → i.opcode ≠ 0x3 → argField (encode i) = 0x00

/-- The operand of LOADP and SETPOS is `arg`, or `arg - 256` when its top bit is set, and `pos` receives `arg` bit for bit
(30_encoding.md section 1). -/
def Obligations.OperandIsSignExtendedArgument : Prop :=
  ∀ arg : BitVec 8,
    let p : Int := if arg.toNat < 128 then arg.toNat else (arg.toNat : Int) - 256
    decode ((0x2 : BitVec 4) ++ arg) = .loadp p ∧ decode ((0x3 : BitVec 4) ++ arg) = .setpos p ∧ posOf p = arg

/-- Words written out from 95_test_vectors.md V30 decode to the commands the spec gives. -/
def Obligations.SampleWordsDecode : Prop :=
  decode 0b000011111111 = .nop ∧ decode 0b000110100101 = .tick ∧ decode 0b001010000011 = .loadp (-125) ∧
  decode 0b001001111101 = .loadp 125 ∧ decode 0b001111111111 = .setpos (-1) ∧ decode 0b010011111111 = .ench ∧
  decode 0b010100000000 = .encl ∧ decode 0b011010101011 = .init ∧ decode 0b011100000000 = .rsvd7 ∧
  decode 0b111111111111 = .rsvd15

/-- Every command with an encoding can be written in the assembler syntax, and the line reads back as it (30_encoding.md section 4). -/
def Obligations.AssemblerLineReadsBack : Prop :=
  ∀ i : Instr, i.WellFormed → parseLine (lineOf i) = .ok (some i)

/-- Assembling the lines of commands gives their canonical words in order (30_encoding.md section 4); that a blank line gives no word, and
that a comment may stand alone and gives none, is the model's reading, log 20. -/
def Obligations.AssemblerEmitsCanonicalWords : Prop :=
  ∀ (is : List Instr) (comment : List Char), (∀ i ∈ is, i.WellFormed) →
    assemble ((';' :: comment) :: [] :: is.map (fun i => lineOf i ++ ';' :: comment)) = .ok (is.map encode)

/-! ### The encoder's functions -/

/-- Within contract the encoding is exact: it neither leaves its field nor borrows (41_encoder.md section 1). -/
def Obligations.EncodingWithinContract : Prop :=
  ∀ (c : Config) (p : Int), c.Valid → c.InRange p →
    (c.encMode = .coarse → (dutyNat c p : Int) = c.baseOffset + p ∧ dutyOf (dutyNat c p) = dutyNat c p) ∧
    (c.encMode = .fine → (dutyNat c p : Int) = c.center + p ∧
      highOf (dutyNat c p) < 2 ^ c.highWidth ∧ 4 * highOf (dutyNat c p) + (lowOf (dutyNat c p)).toNat = dutyNat c p)

/-- The field split and its inverse, and its consequence that no two in-range positions share a field pair (the spec derives these from
its rule of the fields, 41_encoder.md section 1). -/
def Obligations.FieldSplitRoundTrip : Prop :=
  (∀ (c : Config) (raw : Nat), raw ≤ 2 ^ c.rawWidth - 1 →
    (fieldsOf raw).1 < 2 ^ c.highWidth ∧ rawOf (fieldsOf raw).1 (fieldsOf raw).2 = raw) ∧
  (∀ (c : Config) (h : Nat) (l : LowField), h < 2 ^ c.highWidth →
    rawOf h l = 4 * h + l.toNat ∧ rawOf h l ≤ 2 ^ c.rawWidth - 1 ∧ fieldsOf (rawOf h l) = (h, l)) ∧
  (∀ (c : Config) (p q : Int), c.Valid → c.encMode = .fine → c.InRange p → c.InRange q →
    fieldsOf (dutyNat c p) = fieldsOf (dutyNat c q) → p = q)

/-- Neighbouring positions share the high field unless the lower one's raw value is 3 modulo 4 (the spec derives this, R80(d) of
41_encoder.md section 4). -/
def Obligations.AdjacentPositionsShareHighField : Prop :=
  ∀ (c : Config) (p : Int), c.Valid → c.encMode = .fine → c.InRange p → c.InRange (p + 1) →
    (highOf (dutyNat c p) = highOf (dutyNat c (p + 1)) ↔ dutyNat c p % 4 ≠ 3)

/-- The size of a torn pair's glitch: a mixed pair is at most 3 from the one value and at most their distance plus 3 from the other (the
spec derives this, the end of R78 in 41_encoder.md section 4). -/
def Obligations.TornPairGlitchBound : Prop :=
  ∀ (c : Config) (a b : Nat), a ≤ 2 ^ c.rawWidth - 1 → b ≤ 2 ^ c.rawWidth - 1 →
    ((rawOf (highOf a) (lowOf b) : Int) - a).natAbs ≤ 3 ∧
    ((rawOf (highOf a) (lowOf b) : Int) - b).natAbs ≤ ((a : Int) - b).natAbs + 3

/-! ### The commands, one by one -/

/-- R48 and R60: NOP and the nine reserved opcodes change nothing, every word of opcode 0 is NOP with canonical word 0x000, the reserved
words stay apart from NOP, and no word traps. -/
def Obligations.NopAndReservedChangeNothing : Prop :=
  (∀ (s : State) (i : Instr), Ready s →
    i ∈ [Instr.nop, .rsvd7, .rsvd8, .rsvd9, .rsvd10, .rsvd11, .rsvd12, .rsvd13, .rsvd14, .rsvd15] → exec i s = .next s) ∧
  (∀ w : CmdWord, opField w = 0x0 → decode w = .nop) ∧ encode .nop = 0x000 ∧
  (∀ w : CmdWord, 7 ≤ (opField w).toNat →
    decode w ∈ [Instr.rsvd7, .rsvd8, .rsvd9, .rsvd10, .rsvd11, .rsvd12, .rsvd13, .rsvd14, .rsvd15]) ∧
  (∀ (w : CmdWord) (s : State) (f : Fault), exec (decode w) s ≠ .fault f)

/-- R61: TICK. The position must be in range where it is encoded, at a coarse pulse slot (R76). -/
def Obligations.TickRendersSlotAndAdvances : Prop :=
  (∀ s : State, Ready s →
    (s.cfg.encMode = .coarse → s.block.slot = 0 → s.cfg.InRange s.block.pos.toInt) →
    exec .tick s = .next (s.withBlock { s.block with
      oh := if s.block.slot = 0 then
          (if s.cfg.encMode = .coarse then (s.cfg.baseOffset + s.block.pos.toInt).toNat else s.block.sh)
        else 0
      ol := if s.block.slot = 0 then (if s.cfg.encMode = .coarse then 0 else s.block.sl) else 0
      slot := if s.block.slot = 9 then 0 else s.block.slot + 1 })) ∧
  (∀ w : CmdWord, opField w = 0x1 → decode w = .tick) ∧ encode .tick = 0x100

/-- R63: INIT, in any state, never-reset ones too; twice is the same as once; and in a never-reset state it is the one command
accepted. -/
def Obligations.InitGivesInitialState : Prop :=
  (∀ s : State, s.cfg.Valid → ∃ t, exec .init s = .next t ∧ exec .init t = .next t ∧
    t.block.slot = 0 ∧ t.block.pos = 0 ∧ t.block.oh = 0 ∧ t.block.ol = 0 ∧ t.block.live = true ∧
    (s.cfg.encMode = .fine → t.block.sh = s.cfg.center / 4 ∧ t.block.sl = BitVec.ofNat 2 (s.cfg.center % 4)) ∧
    t.cfg = s.cfg ∧ t.host = s.host ∧ t.inputs = s.inputs ∧ t.picks = s.picks) ∧
  (∀ (s : State) (i : Instr), s.block.live = false → i ≠ .init → ∀ t, exec i s ≠ .next t) ∧
  (∀ w : CmdWord, opField w = 0x6 → decode w = .init) ∧ encode .init = 0x600

/-- R71: LOADP with an in-range operand, in both modes. -/
def Obligations.LoadpSetsPositionAndReencodes : Prop :=
  (∀ (s : State) (p : Int), Ready s → s.cfg.InRange p →
    (s.cfg.encMode = .fine →
      exec (.loadp p) s = .next (s.withBlock { s.block with
        pos := BitVec.ofInt 8 p
        sh := ((s.cfg.center + p) / 4).toNat
        sl := BitVec.ofInt 2 ((s.cfg.center + p) % 4)
        oh := ((s.cfg.center + p) / 4).toNat
        ol := BitVec.ofInt 2 ((s.cfg.center + p) % 4) })) ∧
    (s.cfg.encMode = .coarse →
      exec (.loadp p) s = .next (s.withBlock { s.block with pos := BitVec.ofInt 8 p }))) ∧
  (∀ p : Int, FitsArg p → (encode (.loadp p)).toNat = 0x200 ||| (p % 256).toNat)

/-- R72: SETPOS with an in-range operand moves `pos` alone, in both modes. -/
def Obligations.SetposWritesPositionOnly : Prop :=
  (∀ (s : State) (p : Int), Ready s → s.cfg.InRange p →
    exec (.setpos p) s = .next (s.withBlock { s.block with pos := BitVec.ofInt 8 p })) ∧
  (∀ (s : State) (p : Int), Ready s → s.cfg.InRange p → s.cfg.encMode = .coarse → exec (.setpos p) s = exec (.loadp p) s) ∧
  (∀ p : Int, FitsArg p → (encode (.setpos p)).toNat = 0x300 ||| (p % 256).toNat)

/-- R73: ENCH writes the high field of the position, stored and written through, in FINE mode, and nothing in COARSE mode. -/
def Obligations.EnchWritesHighFieldThrough : Prop :=
  (∀ s : State, Ready s →
    (s.cfg.encMode = .fine → s.cfg.InRange s.block.pos.toInt →
      exec .ench s = .next (s.withBlock { s.block with
        sh := ((s.cfg.center + s.block.pos.toInt) / 4).toNat
        oh := ((s.cfg.center + s.block.pos.toInt) / 4).toNat })) ∧
    (s.cfg.encMode = .coarse → exec .ench s = .next s)) ∧
  (∀ w : CmdWord, opField w = 0x4 → decode w = .ench) ∧ encode .ench = 0x400

/-- R74: ENCL writes the low field of the position, stored and written through, in FINE mode, and nothing in COARSE mode. -/
def Obligations.EnclWritesLowFieldThrough : Prop :=
  (∀ s : State, Ready s →
    (s.cfg.encMode = .fine → s.cfg.InRange s.block.pos.toInt →
      exec .encl s = .next (s.withBlock { s.block with
        sl := BitVec.ofInt 2 ((s.cfg.center + s.block.pos.toInt) % 4)
        ol := BitVec.ofInt 2 ((s.cfg.center + s.block.pos.toInt) % 4) })) ∧
    (s.cfg.encMode = .coarse → exec .encl s = .next s)) ∧
  (∀ w : CmdWord, opField w = 0x5 → decode w = .encl) ∧ encode .encl = 0x500

/-- R75: the encoder commands in COARSE mode, that no command there writes `ol` with anything but 0, and that the sequencer computes
the duty value from `pos` at the pulse slot. -/
def Obligations.EncoderCommandsInCoarseMode : Prop :=
  ∀ s : State, Ready s → s.cfg.encMode = .coarse →
    (∀ p, s.cfg.InRange p →
      exec (.loadp p) s = .next (s.withBlock { s.block with pos := BitVec.ofInt 8 p }) ∧
      exec (.setpos p) s = .next (s.withBlock { s.block with pos := BitVec.ofInt 8 p })) ∧
    exec .ench s = .next s ∧ exec .encl s = .next s ∧
    (∀ i t, exec i s = .next t → t.block.ol = s.block.ol ∨ t.block.ol = 0) ∧
    (s.block.slot = 0 → s.cfg.InRange s.block.pos.toInt → ∃ t, exec .tick s = .next t ∧
      t.block.oh = (s.cfg.baseOffset + s.block.pos.toInt).toNat ∧ t.block.ol = 0)

/-- An out-of-range operand of LOADP or SETPOS is refused and nothing is substituted for it (41_encoder.md section 4). The model's choice,
log 6: so is every later command that would encode an out-of-range position, where the spec calls the result unspecified. The model's
choice, log 18: `exec` refuses an operand that no word can carry in the same way. No run from reset reaches a state of the second clause. -/
def Obligations.OutOfRangePositionRefused : Prop :=
  (∀ (s : State) (p : Int), Ready s → ¬ s.cfg.InRange p →
    exec (.loadp p) s = .refused .positionOutOfRange ∧ exec (.setpos p) s = .refused .positionOutOfRange) ∧
  (∀ s : State, Ready s → ¬ s.cfg.InRange s.block.pos.toInt →
    (s.cfg.encMode = .fine →
      exec .ench s = .refused .positionOutOfRange ∧ exec .encl s = .refused .positionOutOfRange) ∧
    (s.cfg.encMode = .coarse → s.block.slot = 0 → exec .tick s = .refused .positionOutOfRange))

/-- R30: before the first reset or INIT every command but INIT is refused, whatever the registers hold; power-on is such a state. -/
def Obligations.NeverResetAcceptsInitOnly : Prop :=
  (∀ (s : State) (i : Instr), s.cfg.Valid → s.block.live = false → i ≠ .init → exec i s = .refused .neverReset) ∧
  (∀ s : State, s.cfg.Valid → ∃ t, exec .init s = .next t ∧ t.block.live = true) ∧
  (∀ (s : State) (b : Bool) (w : CmdWord) (rest : List Input), s.cfg.Valid → s.inputs = .port ⟨true, b, w⟩ :: rest →
    ∃ t, step s = .next t ∧ t.block.live = true) ∧
  (∀ c : Config, (State.powerOn c).block.live = false)

/-- A parameter set that breaks a constraint is refused (00_scope.md section 3: "a model refuses it"). The model's reading, log 7: the
refusal is that of each step and each command, and a POS_LIMIT other than 31 and 125 is refused too. -/
def Obligations.BrokenParametersRefused : Prop :=
  ∀ s : State,
    (s.cfg.encMode = .coarse ∧ (s.cfg.baseOffset < s.cfg.posLimit ∨ 255 < s.cfg.baseOffset + s.cfg.posLimit)) ∨
    (s.cfg.encMode = .fine ∧ (s.cfg.center < s.cfg.posLimit ∨ 2 ^ s.cfg.rawWidth - 1 < s.cfg.center + s.cfg.posLimit)) ∨
    (s.cfg.posLimit ≠ 31 ∧ s.cfg.posLimit ≠ 125) →
    step s = .refused .notThisHardware ∧ ∀ i, exec i s = .refused .notThisHardware

/-! ### Frames and dependences over all commands -/

/-- What each command may write, register by register (the write columns of 10_state.md section 7), and that no command touches the
parameters, the host, the inputs or the model's counter. -/
def Obligations.CommandsWriteOnlyTheirRegisters : Prop :=
  ∀ (i : Instr) (s t : State), exec i s = .next t →
    t.cfg = s.cfg ∧ t.host = s.host ∧ t.inputs = s.inputs ∧ t.picks = s.picks ∧
    (i ≠ .init → t.block.live = s.block.live) ∧
    (i ≠ .tick → i ≠ .init → t.block.slot = s.block.slot) ∧
    ((∀ p, i ≠ .loadp p) → (∀ p, i ≠ .setpos p) → i ≠ .init → t.block.pos = s.block.pos) ∧
    ((∀ p, i ≠ .loadp p) → i ≠ .ench → i ≠ .init → t.block.sh = s.block.sh) ∧
    ((∀ p, i ≠ .loadp p) → i ≠ .encl → i ≠ .init → t.block.sl = s.block.sl) ∧
    (i ≠ .tick → (∀ p, i ≠ .loadp p) → i ≠ .ench → i ≠ .init → t.block.oh = s.block.oh) ∧
    (i ≠ .tick → (∀ p, i ≠ .loadp p) → i ≠ .encl → i ≠ .init → t.block.ol = s.block.ol) ∧
    (s.cfg.encMode = .coarse → i ≠ .init → t.block.sh = s.block.sh ∧ t.block.sl = s.block.sl) ∧
    (s.cfg.encMode = .coarse → i ≠ .init → i ≠ .tick → t.block.oh = s.block.oh ∧ t.block.ol = s.block.ol)

/-- What each command reads (the read columns of 10_state.md section 7): two blocks that agree on the registers a command reads agree
afterwards on the registers it writes. LOADP, SETPOS and INIT read none; the outputs are read by none. -/
def Obligations.CommandsReadOnlyTheirRegisters : Prop :=
  ∀ s s' t t' : State, s.cfg = s'.cfg →
    (exec .tick s = .next t → exec .tick s' = .next t' → s.block.slot = s'.block.slot →
      (s.cfg.encMode = .coarse → s.block.pos = s'.block.pos) →
      (s.cfg.encMode = .fine → s.block.sh = s'.block.sh ∧ s.block.sl = s'.block.sl) →
      t.block.slot = t'.block.slot ∧ t.block.oh = t'.block.oh ∧ t.block.ol = t'.block.ol) ∧
    (∀ p, exec (.loadp p) s = .next t → exec (.loadp p) s' = .next t' →
      t.block.pos = t'.block.pos ∧
      (s.cfg.encMode = .fine → t.block.sh = t'.block.sh ∧ t.block.sl = t'.block.sl ∧
        t.block.oh = t'.block.oh ∧ t.block.ol = t'.block.ol)) ∧
    (∀ p, exec (.setpos p) s = .next t → exec (.setpos p) s' = .next t' → t.block.pos = t'.block.pos) ∧
    (exec .ench s = .next t → exec .ench s' = .next t' → s.cfg.encMode = .fine → s.block.pos = s'.block.pos →
      t.block.sh = t'.block.sh ∧ t.block.oh = t'.block.oh) ∧
    (exec .encl s = .next t → exec .encl s' = .next t' → s.cfg.encMode = .fine → s.block.pos = s'.block.pos →
      t.block.sl = t'.block.sl ∧ t.block.ol = t'.block.ol) ∧
    (exec .init s = .next t → exec .init s' = .next t' → t.block = t'.block)

/-- R18: how each command moves CycleSlot, and that nothing but TICK reads it. -/
def Obligations.SlotMovesOnlyByTickAndInit : Prop :=
  ∀ (i : Instr) (s t : State), exec i s = .next t →
    (i = .tick → t.block.slot = if s.block.slot = 9 then 0 else s.block.slot + 1) ∧
    (i = .init → t.block.slot = 0) ∧
    (i ≠ .tick → i ≠ .init → t.block.slot = s.block.slot) ∧
    (∀ v : Slot, i ≠ .tick → i ≠ .init →
      exec i (s.withBlock (s.block.setSlot v)) = .next (t.withBlock (t.block.setSlot v))) ∧
    (∀ v : Slot, i = .init → exec i (s.withBlock (s.block.setSlot v)) = .next t) ∧
    (slotQ t).toNat = t.block.slot.val

/-- Every command but TICK done twice leaves the state of once; TICK done twice never does (the spec derives this, R37 of 20_memory.md
section 3). -/
def Obligations.OnlyTickIsNotIdempotent : Prop :=
  ∀ (i : Instr) (s t : State), exec i s = .next t →
    (i ≠ .tick → exec i t = .next t) ∧ (i = .tick → ∀ u, exec i t = .next u → u ≠ t)

/-! ### Sequences of commands -/

/-- SETPOS and the two field commands, in either order, end where LOADP ends, and the field commands commute (the spec derives this,
R77 of 41_encoder.md section 4). -/
def Obligations.SplitLoadEndsLikeLoadp : Prop :=
  ∀ (s : State) (p : Int), Ready s → s.cfg.encMode = .fine → s.cfg.InRange p →
    execs [.setpos p, .ench, .encl] s = exec (.loadp p) s ∧
    execs [.setpos p, .encl, .ench] s = exec (.loadp p) s ∧
    execs [.ench, .encl] s = execs [.encl, .ench] s ∧
    ∃ t, exec (.loadp p) s = .next t

/-- What a pulse tick emits inside a split load from position `a` to `b`: old and old after SETPOS, new high and old low after ENCH, old
high and new low after ENCL (the spec derives this, R78 of 41_encoder.md section 4). -/
def Obligations.PulseInsideSplitLoad : Prop :=
  ∀ (s : State) (b : Int), Ready s → s.cfg.encMode = .fine → s.block.slot = 0 → s.cfg.InRange b →
    ¬ torn s.cfg s.block →
    let a := s.block.pos.toInt
    (∃ t, execs [.setpos b, .tick] s = .next t ∧
      t.block.oh = highOf (dutyNat s.cfg a) ∧ t.block.ol = lowOf (dutyNat s.cfg a)) ∧
    (∃ t, execs [.setpos b, .ench, .tick] s = .next t ∧
      t.block.oh = highOf (dutyNat s.cfg b) ∧ t.block.ol = lowOf (dutyNat s.cfg a)) ∧
    (∃ t, execs [.setpos b, .encl, .tick] s = .next t ∧
      t.block.oh = highOf (dutyNat s.cfg a) ∧ t.block.ol = lowOf (dutyNat s.cfg b))

/-- A tick between the two field commands at a slot that is not the pulse slot leaves half a duty value on the outputs (the spec derives
this, the second effect of R141 in 70_reset_and_hazards.md section 3). -/
def Obligations.TickBetweenFieldCommands : Prop :=
  ∀ (s : State) (q : Int), Ready s → s.cfg.encMode = .fine → s.block.slot ≠ 0 → s.cfg.InRange q →
    (∃ t, execs [.setpos q, .ench, .tick, .encl] s = .next t ∧
      t.block.oh = 0 ∧ t.block.ol = lowOf (dutyNat s.cfg q) ∧ ¬ torn t.cfg t.block) ∧
    (∃ t, execs [.setpos q, .encl, .tick, .ench] s = .next t ∧
      t.block.oh = highOf (dutyNat s.cfg q) ∧ t.block.ol = 0 ∧ ¬ torn t.cfg t.block)

/-- In FINE mode a load shows on the outputs at once, whatever the slot, and the next tick that is no pulse clears it; in COARSE mode a
load does not show (the spec derives this, R140 of 70_reset_and_hazards.md section 3). -/
def Obligations.LoadWritesThroughUntilNextTick : Prop :=
  ∀ (s : State) (p : Int), Ready s → s.cfg.InRange p → s.block.slot ≠ 0 →
    (s.cfg.encMode = .fine → ∃ t u, exec (.loadp p) s = .next t ∧ exec .tick t = .next u ∧
      pwmH t = highOf (dutyNat s.cfg p) ∧ pwmL t = lowOf (dutyNat s.cfg p) ∧ pwmH u = 0 ∧ pwmL u = 0) ∧
    (s.cfg.encMode = .coarse → ∃ t u, exec (.loadp p) s = .next t ∧ exec .tick t = .next u ∧
      pwmH t = pwmH s ∧ pwmL t = pwmL s ∧ pwmH u = 0 ∧ pwmL u = 0)

/-- Without split commands a whole pair stays whole (R27(e), which the spec derives, 10_state.md section 7). -/
def Obligations.WholePairStaysWhole : Prop :=
  ∀ (i : Instr) (s t : State), MachineInv s → s.cfg.encMode = .fine → exec i s = .next t →
    ¬ torn s.cfg s.block → (∀ p, i ≠ .setpos p) → i ≠ .ench → i ≠ .encl → ¬ torn t.cfg t.block

/-- Ten TICKs, with any commands but INIT among them, return CycleSlot to where it was, and exactly one of them renders the pulse slot
(the spec derives this, R64 of 40_sequencer.md section 5). -/
def Obligations.TenTicksMakeOneCycle : Prop :=
  ∀ (cs : List Instr) (s t : State), (∀ i ∈ cs, i ≠ .init) → tickCount cs = 10 → execs cs s = .next t →
    t.block.slot = s.block.slot ∧ pulseTicks cs s = 1

/-- The output train: after reset, with TICK and in-range LOADP only, the run never stops, and after its k-th TICK the outputs hold the
encoding of the last loaded position when k - 1 is a multiple of 10, and zero otherwise (the spec derives this, R66 of 40_sequencer.md
section 5). -/
def Obligations.OutputTrainAfterReset : Prop :=
  ∀ (c : Config) (cs : List Instr), c.Valid → TicksAndLoads c cs →
    ∃ t, execs (cs ++ [.tick]) (State.resetWith c) = .next t ∧
      t.block.slot.val = (tickCount cs + 1) % 10 ∧ t.block.pos = posOf (lastLoaded 0 cs) ∧
      (tickCount cs % 10 ≠ 0 → pwmH t = 0 ∧ pwmL t = 0) ∧
      (tickCount cs % 10 = 0 → c.encMode = .coarse → pwmH t = dutyOf (dutyNat c (lastLoaded 0 cs)) ∧ pwmL t = 0) ∧
      (tickCount cs % 10 = 0 → c.encMode = .fine →
        pwmH t = highOf (dutyNat c (lastLoaded 0 cs)) ∧ pwmL t = lowOf (dutyNat c (lastLoaded 0 cs)))

/-! ### Ports, reset, the step -/

/-- One clock edge (20_memory.md section 2). `rst` wins over `cmd_valid`, whatever the word; a valid word is executed; with both low
nothing changes. That `rst` leaves the host as it is is the model's choice, log 14. -/
def Obligations.PortEdgeExecutesOneCommand : Prop :=
  ∀ (s : State) (w : CmdWord) (rest : List Input), s.cfg.Valid →
    (∀ b, s.inputs = .port ⟨true, b, w⟩ :: rest → ∃ t, step s = .next t ∧
      t.block = Block.afterReset s.cfg ∧ t.cfg = s.cfg ∧ t.host = s.host ∧ t.inputs = rest ∧ t.picks = s.picks) ∧
    (s.inputs = .port ⟨false, true, w⟩ :: rest → step s = exec (decode w) (s.withInputs rest)) ∧
    (s.inputs = .port ⟨false, false, w⟩ :: rest → step s = .next (s.withInputs rest))

/-- When the word on the command port decodes to `i`, the step is exec of `i`, with the edge taken off the inputs and nothing else around
it; and a word placed by `withFetchWord` is executed by the very next step. -/
def Obligations.StepRunsTheDecodedCommand : Prop :=
  (∀ (s : State) (i : Instr) (w : CmdWord) (rest : List Input),
    s.inputs = .port ⟨false, true, w⟩ :: rest → decode w = i → step s = exec i (s.withInputs rest)) ∧
  (∀ (s : State) (w : Nat), w < 4096 → step (s.withFetchWord 16 w) = exec (decode (BitVec.ofNat 12 w)) s)

/-- INIT and reset leave exactly the same state (70_reset_and_hazards.md section 1, which speaks of the block). That the rest of the
machine agrees too, because `rst` leaves the host as it is, is the model's choice, log 14. -/
def Obligations.InitAndResetLeaveTheSameState : Prop :=
  ∀ (s : State) (b : Bool) (w : CmdWord), step (s.withInputs (.port ⟨true, b, w⟩ :: s.inputs)) = exec .init s

/-- R29: the state after an edge with `rst` high, and equally after INIT, whatever was before. -/
def Obligations.ResetValues : Prop :=
  (∀ c : Config,
    (Block.afterReset c).slot = 0 ∧ (Block.afterReset c).pos = 0 ∧
    (Block.afterReset c).oh = 0 ∧ (Block.afterReset c).ol = 0 ∧
    (c.encMode = .fine → (Block.afterReset c).sh = c.center >>> 2 ∧
      (Block.afterReset c).sl = BitVec.ofNat 2 (c.center &&& 0b11) ∧
      ((Block.afterReset c).sh, (Block.afterReset c).sl) = fieldsOf (dutyNat c 0))) ∧
  (∀ c : Config, (State.resetWith c).block = Block.afterReset c) ∧ State.reset.block = Block.afterReset State.reset.cfg ∧
  (∀ s : State, s.cfg.Valid → exec .init s = .next (s.withBlock (Block.afterReset s.cfg))) ∧
  (∀ (s : State) (b : Bool) (w : CmdWord) (rest : List Input), s.cfg.Valid → s.inputs = .port ⟨true, b, w⟩ :: rest →
    ∃ t, step s = .next t ∧ t.block = Block.afterReset s.cfg)

/-- The first tick after reset commands the centre (the spec derives this, R137 of 70_reset_and_hazards.md section 2). -/
def Obligations.FirstPulseIsTheCentre : Prop :=
  ∀ c : Config, c.Valid → ∃ t, exec .tick (State.resetWith c) = .next t ∧
    (c.encMode = .coarse → pwmH t = c.baseOffset ∧ pwmL t = 0) ∧
    (c.encMode = .fine → 4 * pwmH t + (pwmL t).toNat = c.center)

/-! ### The sweep host -/

/-- R87: the buttons in the sweep variant, in each state; no command is issued, neither the counter nor the block is
touched, and the one event that is served is taken off the waiting ones. -/
def Obligations.SweepButtonEvents : Prop :=
  ∀ (p : Pick) (s : State) (e : Event), s.cfg.hostVariant = .sweep → e = .buttonA ∨ e = .buttonB →
    let w := s.host.sweep
    let w' := (takeEvent p e s).host.sweep
    (w.state = .stopped → e = .buttonA → w' = { w with speed := 10, dir := .up, state := .singleSweep }) ∧
    (w.state = .stopped → e = .buttonB → w' = { w with speed := 10, dir := .up, state := .continuousSweep }) ∧
    (w.state = .continuousSweep → e = .buttonA → w' = { w with state := .singleSweep }) ∧
    (w.state = .continuousSweep → e = .buttonB → w' = { w with speed := if w.speed = 10 then 5 else 10 }) ∧
    (w.state = .singleSweep → w' = w) ∧
    w'.n = w.n ∧ (takeEvent p e s).block = s.block ∧ (takeEvent p e s).host.high = [] ∧
    (takeEvent p e s).host.low = s.host.low ∧
    (takeEvent p e s).host.pend.count e = s.host.pend.count e - 1 ∧
    ∀ e', e' ≠ e → (takeEvent p e s).host.pend.count e' = s.host.pend.count e'

/-- R88: the tick in the sweep variant: what the sweep registers become and which load is issued. The order of the load and TICK is that of
TICK_ORDER, controller first by default (42_host_sweep.md section 4, 92_eei_decisions.md D16). -/
def Obligations.SweepTickEvent : Prop :=
  ∀ (p : Pick) (s : State), s.cfg.hostVariant = .sweep →
    let w := s.host.sweep
    let h := (takeEvent p .tick s).host
    let q := s.block.pos.toInt + (if w.dir = .up then 1 else -1)
    let issues : Int → List Instr := fun v =>
      if s.cfg.tickOrder = .controllerFirst then [.loadp v, .tick] else [.tick, .loadp v]
    (w.state = .stopped → h.sweep = w ∧ h.high = [.tick]) ∧
    (w.state ≠ .stopped → w.n + 1 < w.speed → h.sweep = { w with n := w.n + 1 } ∧ h.high = [.tick]) ∧
    (w.state ≠ .stopped → w.speed ≤ w.n + 1 → 31 < q →
      h.sweep = { w with n := 0, dir := .down } ∧ h.high = issues 31) ∧
    (w.state = .singleSweep → w.speed ≤ w.n + 1 → q < -31 →
      h.sweep = { w with n := 0, state := .stopped } ∧ h.high = issues (-31)) ∧
    (w.state = .continuousSweep → w.speed ≤ w.n + 1 → q < -31 →
      h.sweep = { w with n := 0, dir := .up } ∧ h.high = issues (-31)) ∧
    (w.state ≠ .stopped → w.speed ≤ w.n + 1 → -31 ≤ q → q ≤ 31 →
      h.sweep = { w with n := 0 } ∧ h.high = issues q)

/-- From Stopped, Button A and ten ticks move the position up by one and leave a single sweep upwards, for any counter from 0 to 9 (the
spec derives this from the source's property, R95 of 42_host_sweep.md section 5). -/
def Obligations.ButtonAThenTenTicksStepOnce : Prop :=
  ∀ (w : Sweep) (p : Int), w.state = .stopped → w.n ≤ 9 → -31 ≤ p → p ≤ 30 →
    let r := Sweep.ticks 10 (w.onButtonA, p)
    r.2 = p + 1 ∧ r.1.state = .singleSweep ∧ r.1.dir = .up ∧ r.1.speed = 10

/-- How long a single sweep lasts, and where it ends: from position `p` upwards it takes `95 - p` qualifying ticks and stops then, not
before, at -31 with its direction left downwards (the spec derives 95 steps from position 0, R92 of 42_host_sweep.md section 4). -/
def Obligations.SingleSweepEndsAfterOneCycle : Prop :=
  ∀ (speed : Nat) (p : Int), speed = 10 ∨ speed = 5 → -31 ≤ p → p ≤ 31 →
    Sweep.ticks (speed * (95 - p).toNat) (⟨.singleSweep, speed, .up, 0⟩, p) = (⟨.stopped, speed, .down, 0⟩, -31) ∧
    ∀ k, k < speed * (95 - p).toNat →
      (Sweep.ticks k (⟨.singleSweep, speed, .up, 0⟩, p)).1.state = .singleSweep

/-- A continuous sweep never stops by itself and never leaves the range (42_host_sweep.md sections 4 and 5). -/
def Obligations.ContinuousSweepNeverStops : Prop :=
  ∀ (k : Nat) (w : Sweep) (p : Int), w.state = .continuousSweep → -31 ≤ p → p ≤ 31 →
    (Sweep.ticks k (w, p)).1.state = .continuousSweep ∧ -31 ≤ (Sweep.ticks k (w, p)).2 ∧ (Sweep.ticks k (w, p)).2 ≤ 31

/-- The machine serves ticks as `Sweep.ticks` says: in the sweep variant, from an idle host that meets the invariants, serving one waiting
tick leaves the sweep registers as SweepTick does, the position where its load puts it, and CycleSlot one further; serving `k` waiting
ticks leaves them as `Sweep.ticks k` says (42_host_sweep.md section 4, 44_host_dispatcher.md section 1; that taking an event is a step of
its own is the model's choice, log 10). -/
def Obligations.SweepTicksServedBySteps : Prop :=
  (∀ (k : Nat) (s : State), MachineInv s → HostInv s → s.cfg.hostVariant = .sweep → s.host.up = true → s.inputs = [] →
    s.host.high = [] → s.host.low = [] → s.host.pend = ⟨k + 1, 0, 0⟩ →
    let x := s.host.sweep.onTick s.block.pos.toInt
    ∃ t, Sys2Proof.core.run (1 + (tickCommands s.cfg.tickOrder x.2).length) s = .next t ∧
      t.host.sweep = x.1 ∧ t.block.pos.toInt = x.2.getD s.block.pos.toInt ∧ t.block.slot.val = (s.block.slot.val + 1) % 10 ∧
      t.host.high = [] ∧ t.host.low = [] ∧ t.host.pend = ⟨k, 0, 0⟩ ∧ t.host.up = true ∧ t.inputs = [] ∧ t.cfg = s.cfg) ∧
  (∀ (k : Nat) (s : State), MachineInv s → HostInv s → s.cfg.hostVariant = .sweep → s.host.up = true → s.inputs = [] →
    s.host.high = [] → s.host.low = [] → s.host.pend = ⟨k, 0, 0⟩ →
    ∃ n t, Sys2Proof.core.run n s = .next t ∧
      (t.host.sweep, t.block.pos.toInt) = Sweep.ticks k (s.host.sweep, s.block.pos.toInt) ∧
      t.block.slot.val = (s.block.slot.val + k) % 10 ∧ t.host.high = [] ∧ t.host.low = [] ∧ t.host.pend = ⟨0, 0, 0⟩)

/-! ### The direct host -/

/-- In the direct variant Button A is `move(+10)` and Button B `move(-10)`, each the exact sum saturated to ±125 and loaded in the
deployment's style, with either field order; a tick has no controller action and issues TICK alone (43_host_direct.md, R99 to R101). One
event of the source is taken off the waiting ones; the other level's handler, the sweep registers and the block do not change. -/
def Obligations.DirectButtonEvents : Prop :=
  ∀ (p : Pick) (s : State), s.cfg.hostVariant = .direct →
    (∀ e : Event, e = .buttonA ∨ e = .buttonB →
      let sum := s.block.pos.toInt + (if e = .buttonA then 10 else -10)
      let q := if sum < -125 then -125 else if 125 < sum then 125 else sum
      let h := (takeEvent p e s).host
      (s.cfg.loadStyle = .atomic → h.low = [.loadp q]) ∧
      (s.cfg.loadStyle = .split → p.highFirst = true → h.low = [.setpos q, .ench, .encl]) ∧
      (s.cfg.loadStyle = .split → p.highFirst = false → h.low = [.setpos q, .encl, .ench]) ∧
      h.high = s.host.high ∧ h.sweep = s.host.sweep ∧ (takeEvent p e s).block = s.block) ∧
    (∀ e : Event, (takeEvent p e s).host.pend.count e = s.host.pend.count e - 1 ∧
      ∀ e', e' ≠ e → (takeEvent p e s).host.pend.count e' = s.host.pend.count e') ∧
    (takeEvent p .tick s).host.high = [.tick] ∧ (takeEvent p .tick s).host.low = s.host.low ∧
    (takeEvent p .tick s).host.sweep = s.host.sweep ∧ (takeEvent p .tick s).block = s.block

/-- Repeated moves saturate exactly (the spec derives the sequence from 0, R103 of 43_host_direct.md): `k` moves of `d ≥ 0` from `a` in
range end at `a + k * d` or at 125, whichever is less, and symmetrically downwards. -/
def Obligations.RepeatedMovesSaturate : Prop :=
  ∀ (d : Nat) (k : Nat) (a : Int), -125 ≤ a → a ≤ 125 →
    moves d k a = min (a + k * d) 125 ∧ moves (-(d : Int)) k a = max (a - k * d) (-125)

/-- `place(p)` sets the position and re-encodes it, with no clamp: an in-range `p` gives the fields of CENTER + p, and an out-of-range
one is refused (43_host_direct.md, the rule of `place`). -/
def Obligations.PlaceLoadsWithoutClamp : Prop :=
  ∀ (s : State) (p : Int), Ready s → s.cfg.encMode = .fine →
    (s.cfg.InRange p → ∃ t, execs (placeCommands p) s = .next t ∧ t.block.pos.toInt = p ∧
      (t.block.sh, t.block.sl) = fieldsOf (s.cfg.center + p).toNat) ∧
    (¬ s.cfg.InRange p → execs (placeCommands p) s = .refused .positionOutOfRange)

/-! ### The dispatcher -/

/-- The order of the host's commands (44_host_dispatcher.md section 2). A HIGH handler in progress goes on and nothing is inserted into
it; a waiting HIGH event is taken before the next LOW command, with the LOW handler's rest kept; a LOW handler goes on before another
LOW event is taken. That taking an event is a step of its own is the model's choice, log 10. -/
def Obligations.HostPriorityOrder : Prop :=
  ∀ (s : State), s.cfg.Valid → s.host.up = true → s.inputs = [] →
    (∀ c rest, s.host.high = c :: rest → step s = exec c (s.withHost { s.host with high := rest })) ∧
    (s.host.high = [] → (∃ e, level s.cfg.hostVariant e = .high ∧ 0 < s.host.pend.count e) →
      ∃ e t, level s.cfg.hostVariant e = .high ∧ 0 < s.host.pend.count e ∧ step s = .next t ∧
        t = takeEvent (pickNow s) e s ∧ t.host.low = s.host.low ∧ t.block = s.block) ∧
    (s.host.high = [] → (∀ e, level s.cfg.hostVariant e = .high → s.host.pend.count e = 0) →
      (∀ c rest, s.host.low = c :: rest → step s = exec c (s.withHost { s.host with low := rest })) ∧
      (s.host.low = [] → (∃ e, level s.cfg.hostVariant e = .low ∧ 0 < s.host.pend.count e) →
        ∃ e t, level s.cfg.hostVariant e = .low ∧ 0 < s.host.pend.count e ∧ step s = .next t ∧
          t = takeEvent (pickNow s) e s ∧ t.host.high = [] ∧ t.block = s.block) ∧
      (s.host.low = [] → (∀ e, s.host.pend.count e = 0) → step s = .next s))

/-- Each variant's priorities, and that `pos` has writers at one level only: in the sweep variant every handler is HIGH, in the direct
variant no HIGH handler loads a position and only the buttons are LOW (the spec derives the second half, R111 of 44_host_dispatcher.md
section 2). -/
def Obligations.PositionHasWritersAtOneLevel : Prop :=
  (∀ e : Event, level .sweep e = .high ∧ (level .direct e = .high ↔ e = .tick)) ∧
  (∀ (p : Pick) (s : State) (e : Event), s.cfg.hostVariant = .direct → level .direct e = .high →
    ∀ i ∈ (handler p.highFirst s e).2, ∀ q, i ≠ .loadp q ∧ i ≠ .setpos q) ∧
  (∀ (p : Pick) (s : State) (e : Event), s.cfg.hostVariant = .sweep → (takeEvent p e s).host.low = s.host.low)

/-- An event's arrival touches its own count alone. While its level is masked the count grows by one as long as it is below `pendLimit`, and
stays otherwise; none that is kept is lost (44_host_dispatcher.md section 2, 93_implementation_defined.md U11). The model's choices,
log 12: a free level keeps the event even under `pendLimit` 0, and a further one before the first is taken only up to `pendLimit`; and a
level is masked before `initialize()`. -/
def Obligations.EventArrival : Prop :=
  ∀ (s : State) (e : Event) (rest : List Input), s.cfg.Valid → s.inputs = .event e :: rest →
    let old := s.host.pend.count e
    ∃ t, step s = .next t ∧ t.block = s.block ∧ t.cfg = s.cfg ∧ t.inputs = rest ∧ t.picks = s.picks ∧
      t.host.high = s.host.high ∧ t.host.low = s.host.low ∧ t.host.sweep = s.host.sweep ∧ t.host.up = s.host.up ∧
      (∀ e', e' ≠ e → t.host.pend.count e' = s.host.pend.count e') ∧
      (s.host.masked (level s.cfg.hostVariant e) = true →
        t.host.pend.count e = if old < s.cfg.pendLimit then old + 1 else old) ∧
      (s.host.masked (level s.cfg.hostVariant e) = false →
        t.host.pend.count e = if old = 0 ∨ old < s.cfg.pendLimit then old + 1 else old) ∧
      (s.host.masked .high = true ↔ s.host.up = false ∨ s.host.high ≠ []) ∧
      (s.host.masked .low = true ↔ s.host.up = false ∨ s.host.high ≠ [] ∨ s.host.low ≠ [])

/-- R107: the tick's handler. In the direct variant it issues TICK alone; in the sweep variant the controller's load, if any, and TICK,
in the order of TICK_ORDER (the second order is 92_eei_decisions.md D16); in all, exactly one TICK per tick event. -/
def Obligations.TickEventIssuesOneTick : Prop :=
  ∀ (p : Pick) (s : State),
    let h := (takeEvent p .tick s).host
    let load := ((s.host.sweep.onTick s.block.pos.toInt).2.map Instr.loadp).toList
    (s.cfg.hostVariant = .direct → h.high = [.tick] ∧ h.sweep = s.host.sweep) ∧
    (s.cfg.hostVariant = .sweep →
      h.sweep = (s.host.sweep.onTick s.block.pos.toInt).1 ∧
      (s.cfg.tickOrder = .controllerFirst → h.high = load ++ [.tick]) ∧
      (s.cfg.tickOrder = .sequencerFirst → h.high = .tick :: load)) ∧
    tickCount h.high = 1 ∧ h.low = s.host.low ∧ h.pend.tick = s.host.pend.tick - 1 ∧
    h.pend.buttonA = s.host.pend.buttonA ∧ h.pend.buttonB = s.host.pend.buttonB

/-- `initialize()` issues INIT, and in the sweep variant sets Stopped and the counter to 0; it is the host's first move, and it runs
once: a host that is up never issues INIT again (44_host_dispatcher.md section 1). That it is one step of the host, and the field `up`,
are the model's choice, log 13; that it leaves the sweep registers `speed` and `dir` as they are is the model's choice, log 4. -/
def Obligations.InitializeComesFirst : Prop :=
  (∀ s : State, s.cfg.Valid → s.host.up = false → s.inputs = [] →
    ∃ t, step s = .next t ∧ t.host.up = true ∧ t.block = Block.afterReset s.cfg ∧ t.cfg = s.cfg ∧
      t.host.pend = s.host.pend ∧ t.host.high = s.host.high ∧ t.host.low = s.host.low ∧
      (s.cfg.hostVariant = .sweep → t.host.sweep.state = .stopped ∧ t.host.sweep.n = 0) ∧
      t.host.sweep.speed = s.host.sweep.speed ∧ t.host.sweep.dir = s.host.sweep.dir) ∧
  (∀ (p : Pick) (s : State) (e : Event), ∀ i ∈ (handler p.highFirst s e).2, i ≠ .init) ∧
  ∀ s t : State, s.host.up = true → step s = .next t → t.host.up = true

/-! ### Invariants of every step -/

/-- The parameters are fixed: no step changes them (R6). -/
def Obligations.StepKeepsParameters : Prop :=
  ∀ s t : State, step s = .next t → t.cfg = s.cfg

/-- Every step, whatever drives the ports, keeps R27(a) to (d) (10_state.md section 7, which derives them for runs from reset) and the
widths of the high registers (10_state.md section 1; the width of `oh` is log 26). -/
def Obligations.StepKeepsBlockInvariant : Prop :=
  ∀ s t : State, MachineInv s → step s = .next t → MachineInv t

/-- The documented hosts never break the block's contract: a step that is not driven from outside is never refused, and the host keeps
its discipline (44_host_dispatcher.md section 2). The direct host is taken over POS_LIMIT = 125 as documented; over POS_LIMIT = 31 its
loads may be refused, log 22. -/
def Obligations.DocumentedHostNeverRefused : Prop :=
  ∀ s : State, MachineInv s → HostInv s → Paired s.cfg → HostDriven s →
    ∃ t, step s = .next t ∧ MachineInv t ∧ HostInv t ∧ Paired t.cfg

/-- A torn pair exists only inside a SPLIT load in progress, and the rest of the handler makes it whole again (the bound the spec derives
in R141, 70_reset_and_hazards.md section 3). -/
def Obligations.TornOnlyInsideSplitLoad : Prop :=
  ∀ s t : State, MachineInv s → TornInv s → HostDriven s → step s = .next t →
    TornInv t ∧ (t.block.live = true → t.cfg.encMode = .fine → t.host.low = [] → ¬ torn t.cfg t.block)

/-- At most one pulse per button press carries a torn pair (the bound the spec derives in R141, 70_reset_and_hazards.md section 3): over `n`
steps of the documented host, of which the LOW handler in progress takes at most the first `m` and no other is begun after it, at most
one TICK emits a torn pair, provided at most ten TICKs are executed within those `m` steps. The spec's bound rests on that proviso, since
its rules order events and not time; the machine admits more ticks within one handler (log 25). -/
def Obligations.TornPulsesPerButtonPress : Prop :=
  ∀ (n m : Nat) (s : State), MachineInv s → HostInv s → TornInv s → s.host.up = true → (∀ e, Input.port e ∉ s.inputs) →
    m ≤ n → (∀ k u, m ≤ k → k < n → Sys2Proof.core.run k s = .next u → u.host.low = []) →
    stepsWith ticks m s ≤ 10 → stepsWith emitsTornPulse n s ≤ 1

/-- Every handler runs to completion: with nothing arriving, all that waits is served within as many steps as the backlog counts
(44_host_dispatcher.md section 2). That taking an event is a step of its own, which the count contains, is the model's choice, log 10. -/
def Obligations.BacklogIsServed : Prop :=
  ∀ s : State, MachineInv s → HostInv s → Paired s.cfg → s.host.up = true → s.inputs = [] →
    ∃ t, Sys2Proof.core.run (backlog s) s = .next t ∧ t.host.high = [] ∧ t.host.low = [] ∧ ∀ e, t.host.pend.count e = 0

/-- Reset and power-on meet the invariants, for every parameter set of this hardware (10_state.md section 8 for the block,
42_host_sweep.md section 1, 44_host_dispatcher.md section 1 and 70_reset_and_hazards.md section 2 for the host). The model's choices:
the parameters of State.reset (log 2), the sweep speed (log 4), no handler and no event at reset (log 10, log 12), and which of the two
states is before `initialize()` (log 13). -/
def Obligations.InvariantsHoldAtReset : Prop :=
  ∀ c : Config, c.Valid →
    MachineInv (State.resetWith c) ∧ HostInv (State.resetWith c) ∧ TornInv (State.resetWith c) ∧
    MachineInv (State.powerOn c) ∧ HostInv (State.powerOn c) ∧ TornInv (State.powerOn c) ∧
    State.reset = State.resetWith State.reset.cfg ∧ State.reset.cfg.Valid
end

