-- ==== Sys2Proof/Laws/Assembler.lean ====
section
/-! SUPPORT. Lemmas about the textual syntax: numbers read back, lines hold no comment character, a comment is dropped. -/

namespace Sys2Proof.Machine

theorem digitValue_digitChar {d : Nat} (h : d < 10) : digitValue (digitChar d) = some d := by
  revert d; decide

theorem digitChar_ne {d : Nat} (h : d < 10) :
    digitChar d ≠ ';' ∧ digitChar d ≠ ' ' ∧ digitChar d ≠ '\t' ∧ digitChar d ≠ '-' ∧ digitChar d ≠ '+' := by
  revert d; decide

theorem decimal_cases {n : Nat} (h : n < 1000) :
    (∃ a, a < 10 ∧ decimal n = [digitChar a] ∧ n = a) ∨
    (∃ a b, a < 10 ∧ b < 10 ∧ decimal n = [digitChar a, digitChar b] ∧ n = 10 * a + b) ∨
    (∃ a b c, a < 10 ∧ b < 10 ∧ c < 10 ∧ decimal n = [digitChar a, digitChar b, digitChar c] ∧
      n = 10 * (10 * a + b) + c) := by
  unfold decimal
  split
  · exact .inl ⟨n, by omega, rfl, rfl⟩
  · split
    · exact .inr (.inl ⟨n / 10, n % 10, by omega, by omega, rfl, by omega⟩)
    · exact .inr (.inr ⟨n / 100, n / 10 % 10, n % 10, by omega, by omega, by omega, rfl, by omega⟩)

theorem parseNat_decimal {n : Nat} (h : n < 1000) : parseNat (decimal n) = some n := by
  obtain ⟨a, ha, e, rfl⟩ | ⟨a, b, ha, hb, e, rfl⟩ | ⟨a, b, c, ha, hb, hc, e, rfl⟩ := decimal_cases h <;>
    simp [parseNat, digitsFrom, digitValue_digitChar, *]

/-- No character of a number is a comment, a separator or a sign. -/
theorem mem_decimal {n : Nat} (h : n < 1000) {x : Char} (hx : x ∈ decimal n) :
    x ≠ ';' ∧ x ≠ ' ' ∧ x ≠ '\t' ∧ x ≠ '-' ∧ x ≠ '+' := by
  obtain ⟨a, ha, e, -⟩ | ⟨a, b, ha, hb, e, -⟩ | ⟨a, b, c, ha, hb, hc, e, -⟩ := decimal_cases h <;>
    simp only [e, List.mem_cons, List.not_mem_nil, or_false] at hx
  · subst hx; exact digitChar_ne ha
  · rcases hx with rfl | rfl
    · exact digitChar_ne ha
    · exact digitChar_ne hb
  · rcases hx with rfl | rfl | rfl
    · exact digitChar_ne ha
    · exact digitChar_ne hb
    · exact digitChar_ne hc

theorem decimal_ne_nil (n : Nat) : decimal n ≠ [] := by
  unfold decimal; split <;> simp; split <;> simp

theorem parseInt_signedDecimal {p : Int} (h1 : -1000 < p) (h2 : p < 1000) : parseInt (signedDecimal p) = some p := by
  have hn := parseNat_decimal (n := p.natAbs) (by omega)
  unfold signedDecimal
  split
  · have hp : -((p.natAbs : Nat) : Int) = p := by omega
    simp only [parseInt, hn]; exact congrArg some hp
  · have hm := fun x hx => mem_decimal (n := p.natAbs) (x := x) (by omega) hx
    have h0 := decimal_ne_nil p.natAbs
    revert hn hm h0
    generalize decimal p.natAbs = cs
    intro hn hm h0
    cases cs with
    | nil => exact absurd rfl h0
    | cons c cs =>
      have hc := hm c (by simp)
      unfold parseInt
      split
      · next ds e => exact absurd (List.cons.inj e).1 hc.2.2.2.1
      · next ds e => exact absurd (List.cons.inj e).1 hc.2.2.2.2
      · rw [hn]; simp; omega

theorem mem_signedDecimal {p : Int} (h1 : -1000 < p) (h2 : p < 1000) {x : Char} (hx : x ∈ signedDecimal p) :
    x ≠ ';' ∧ x ≠ ' ' ∧ x ≠ '\t' := by
  have hm := fun hx => mem_decimal (n := p.natAbs) (x := x) (by omega) hx
  unfold signedDecimal at hx
  split at hx
  · rcases List.mem_cons.1 hx with rfl | hx
    · decide
    · exact ⟨(hm hx).1, (hm hx).2.1, (hm hx).2.2.1⟩
  · exact ⟨(hm hx).1, (hm hx).2.1, (hm hx).2.2.1⟩

/-- Characters without a separator are one word. -/
theorem wordsFrom_word {cs : List Char} (h : ∀ x ∈ cs, x ≠ ' ' ∧ x ≠ '\t') (acc : List Char) :
    wordsFrom acc cs = if (acc.reverse ++ cs).isEmpty then [] else [acc.reverse ++ cs] := by
  induction cs generalizing acc with
  | nil => cases acc <;> simp [wordsFrom]
  | cons c cs ih =>
    have hc := h c (by simp)
    simp only [wordsFrom, hc.1, hc.2, or_self, if_false]
    rw [ih fun x hx => h x (by simp [hx])]
    simp

/-- A line without a comment character loses nothing but the comment put behind it. -/
theorem dropComment_append {l : List Char} (h : ∀ x ∈ l, x ≠ ';') (r : List Char) :
    dropComment (l ++ ';' :: r) = l := by
  induction l with
  | nil => simp [dropComment]
  | cons a l ih =>
    have ha : a ≠ ';' := h a (by simp)
    have := ih fun c hc => h c (by simp [hc])
    simp only [dropComment, List.cons_append] at *
    rw [List.takeWhile_cons_of_pos (by simpa using ha), this]

theorem dropComment_of_no_comment {l : List Char} (h : ∀ x ∈ l, x ≠ ';') : dropComment l = l := by
  simpa [dropComment] using h

/-- No command's line holds a comment character. -/
theorem lineOf_no_comment {i : Instr} (hi : i.WellFormed) : ∀ x ∈ lineOf i, x ≠ ';' := by
  cases i with
  | loadp p =>
    simp only [Instr.WellFormed, Instr.wf, decide_eq_true_eq, FitsArg] at hi
    intro x hx
    rcases List.mem_append.1 hx with hx | hx
    · simp only [List.mem_cons, List.not_mem_nil, or_false] at hx
      rcases hx with rfl | rfl | rfl | rfl | rfl | rfl <;> decide
    · exact (mem_signedDecimal (by omega) (by omega) hx).1
  | setpos p =>
    simp only [Instr.WellFormed, Instr.wf, decide_eq_true_eq, FitsArg] at hi
    intro x hx
    rcases List.mem_append.1 hx with hx | hx
    · simp only [List.mem_cons, List.not_mem_nil, or_false] at hx
      rcases hx with rfl | rfl | rfl | rfl | rfl | rfl | rfl <;> decide
    · exact (mem_signedDecimal (by omega) (by omega) hx).1
  | _ => simp [lineOf]

end Sys2Proof.Machine
end

