-- ==== Sys2Proof/Laws/State.lean ====
section
/-! SUPPORT. One lemma per field per update of the state, each true by unfolding, so that no later proof unfolds a record update. -/

namespace Sys2Proof.Machine

@[simp] theorem Block.setPos_slot (b : Block) (p : Pos) : (b.setPos p).slot = b.slot := rfl
@[simp] theorem Block.setPos_pos (b : Block) (p : Pos) : (b.setPos p).pos = p := rfl
@[simp] theorem Block.setPos_sh (b : Block) (p : Pos) : (b.setPos p).sh = b.sh := rfl
@[simp] theorem Block.setPos_sl (b : Block) (p : Pos) : (b.setPos p).sl = b.sl := rfl
@[simp] theorem Block.setPos_oh (b : Block) (p : Pos) : (b.setPos p).oh = b.oh := rfl
@[simp] theorem Block.setPos_ol (b : Block) (p : Pos) : (b.setPos p).ol = b.ol := rfl
@[simp] theorem Block.setPos_live (b : Block) (p : Pos) : (b.setPos p).live = b.live := rfl

@[simp] theorem Block.setSlot_slot (b : Block) (v : Slot) : (b.setSlot v).slot = v := rfl
@[simp] theorem Block.setSlot_pos (b : Block) (v : Slot) : (b.setSlot v).pos = b.pos := rfl
@[simp] theorem Block.setSlot_sh (b : Block) (v : Slot) : (b.setSlot v).sh = b.sh := rfl
@[simp] theorem Block.setSlot_sl (b : Block) (v : Slot) : (b.setSlot v).sl = b.sl := rfl
@[simp] theorem Block.setSlot_oh (b : Block) (v : Slot) : (b.setSlot v).oh = b.oh := rfl
@[simp] theorem Block.setSlot_ol (b : Block) (v : Slot) : (b.setSlot v).ol = b.ol := rfl
@[simp] theorem Block.setSlot_live (b : Block) (v : Slot) : (b.setSlot v).live = b.live := rfl

@[simp] theorem Block.setStoredHigh_slot (b : Block) (h : Nat) : (b.setStoredHigh h).slot = b.slot := rfl
@[simp] theorem Block.setStoredHigh_pos (b : Block) (h : Nat) : (b.setStoredHigh h).pos = b.pos := rfl
@[simp] theorem Block.setStoredHigh_sh (b : Block) (h : Nat) : (b.setStoredHigh h).sh = h := rfl
@[simp] theorem Block.setStoredHigh_sl (b : Block) (h : Nat) : (b.setStoredHigh h).sl = b.sl := rfl
@[simp] theorem Block.setStoredHigh_oh (b : Block) (h : Nat) : (b.setStoredHigh h).oh = b.oh := rfl
@[simp] theorem Block.setStoredHigh_ol (b : Block) (h : Nat) : (b.setStoredHigh h).ol = b.ol := rfl
@[simp] theorem Block.setStoredHigh_live (b : Block) (h : Nat) : (b.setStoredHigh h).live = b.live := rfl

@[simp] theorem Block.setStoredLow_slot (b : Block) (l : LowField) : (b.setStoredLow l).slot = b.slot := rfl
@[simp] theorem Block.setStoredLow_pos (b : Block) (l : LowField) : (b.setStoredLow l).pos = b.pos := rfl
@[simp] theorem Block.setStoredLow_sh (b : Block) (l : LowField) : (b.setStoredLow l).sh = b.sh := rfl
@[simp] theorem Block.setStoredLow_sl (b : Block) (l : LowField) : (b.setStoredLow l).sl = l := rfl
@[simp] theorem Block.setStoredLow_oh (b : Block) (l : LowField) : (b.setStoredLow l).oh = b.oh := rfl
@[simp] theorem Block.setStoredLow_ol (b : Block) (l : LowField) : (b.setStoredLow l).ol = b.ol := rfl
@[simp] theorem Block.setStoredLow_live (b : Block) (l : LowField) : (b.setStoredLow l).live = b.live := rfl

@[simp] theorem Block.setOutHigh_slot (b : Block) (h : Nat) : (b.setOutHigh h).slot = b.slot := rfl
@[simp] theorem Block.setOutHigh_pos (b : Block) (h : Nat) : (b.setOutHigh h).pos = b.pos := rfl
@[simp] theorem Block.setOutHigh_sh (b : Block) (h : Nat) : (b.setOutHigh h).sh = b.sh := rfl
@[simp] theorem Block.setOutHigh_sl (b : Block) (h : Nat) : (b.setOutHigh h).sl = b.sl := rfl
@[simp] theorem Block.setOutHigh_oh (b : Block) (h : Nat) : (b.setOutHigh h).oh = h := rfl
@[simp] theorem Block.setOutHigh_ol (b : Block) (h : Nat) : (b.setOutHigh h).ol = b.ol := rfl
@[simp] theorem Block.setOutHigh_live (b : Block) (h : Nat) : (b.setOutHigh h).live = b.live := rfl

@[simp] theorem Block.setOutLow_slot (b : Block) (l : LowField) : (b.setOutLow l).slot = b.slot := rfl
@[simp] theorem Block.setOutLow_pos (b : Block) (l : LowField) : (b.setOutLow l).pos = b.pos := rfl
@[simp] theorem Block.setOutLow_sh (b : Block) (l : LowField) : (b.setOutLow l).sh = b.sh := rfl
@[simp] theorem Block.setOutLow_sl (b : Block) (l : LowField) : (b.setOutLow l).sl = b.sl := rfl
@[simp] theorem Block.setOutLow_oh (b : Block) (l : LowField) : (b.setOutLow l).oh = b.oh := rfl
@[simp] theorem Block.setOutLow_ol (b : Block) (l : LowField) : (b.setOutLow l).ol = l := rfl
@[simp] theorem Block.setOutLow_live (b : Block) (l : LowField) : (b.setOutLow l).live = b.live := rfl

@[simp] theorem Block.setOut_slot (b : Block) (h : Nat) (l : LowField) : (b.setOut h l).slot = b.slot := rfl
@[simp] theorem Block.setOut_pos (b : Block) (h : Nat) (l : LowField) : (b.setOut h l).pos = b.pos := rfl
@[simp] theorem Block.setOut_sh (b : Block) (h : Nat) (l : LowField) : (b.setOut h l).sh = b.sh := rfl
@[simp] theorem Block.setOut_sl (b : Block) (h : Nat) (l : LowField) : (b.setOut h l).sl = b.sl := rfl
@[simp] theorem Block.setOut_oh (b : Block) (h : Nat) (l : LowField) : (b.setOut h l).oh = h := rfl
@[simp] theorem Block.setOut_ol (b : Block) (h : Nat) (l : LowField) : (b.setOut h l).ol = l := rfl
@[simp] theorem Block.setOut_live (b : Block) (h : Nat) (l : LowField) : (b.setOut h l).live = b.live := rfl

@[simp] theorem Block.writeHigh_slot (b : Block) (h : Nat) : (b.writeHigh h).slot = b.slot := rfl
@[simp] theorem Block.writeHigh_pos (b : Block) (h : Nat) : (b.writeHigh h).pos = b.pos := rfl
@[simp] theorem Block.writeHigh_sh (b : Block) (h : Nat) : (b.writeHigh h).sh = h := rfl
@[simp] theorem Block.writeHigh_sl (b : Block) (h : Nat) : (b.writeHigh h).sl = b.sl := rfl
@[simp] theorem Block.writeHigh_oh (b : Block) (h : Nat) : (b.writeHigh h).oh = h := rfl
@[simp] theorem Block.writeHigh_ol (b : Block) (h : Nat) : (b.writeHigh h).ol = b.ol := rfl
@[simp] theorem Block.writeHigh_live (b : Block) (h : Nat) : (b.writeHigh h).live = b.live := rfl

@[simp] theorem Block.writeLow_slot (b : Block) (l : LowField) : (b.writeLow l).slot = b.slot := rfl
@[simp] theorem Block.writeLow_pos (b : Block) (l : LowField) : (b.writeLow l).pos = b.pos := rfl
@[simp] theorem Block.writeLow_sh (b : Block) (l : LowField) : (b.writeLow l).sh = b.sh := rfl
@[simp] theorem Block.writeLow_sl (b : Block) (l : LowField) : (b.writeLow l).sl = l := rfl
@[simp] theorem Block.writeLow_oh (b : Block) (l : LowField) : (b.writeLow l).oh = b.oh := rfl
@[simp] theorem Block.writeLow_ol (b : Block) (l : LowField) : (b.writeLow l).ol = l := rfl
@[simp] theorem Block.writeLow_live (b : Block) (l : LowField) : (b.writeLow l).live = b.live := rfl

@[simp] theorem Block.advance_slot (b : Block) : (b.advance).slot = nextSlot b.slot := rfl
@[simp] theorem Block.advance_pos (b : Block) : (b.advance).pos = b.pos := rfl
@[simp] theorem Block.advance_sh (b : Block) : (b.advance).sh = b.sh := rfl
@[simp] theorem Block.advance_sl (b : Block) : (b.advance).sl = b.sl := rfl
@[simp] theorem Block.advance_oh (b : Block) : (b.advance).oh = b.oh := rfl
@[simp] theorem Block.advance_ol (b : Block) : (b.advance).ol = b.ol := rfl
@[simp] theorem Block.advance_live (b : Block) : (b.advance).live = b.live := rfl

@[simp] theorem State.withBlock_cfg (s : State) (b : Block) : (s.withBlock b).cfg = s.cfg := rfl
@[simp] theorem State.withBlock_block (s : State) (b : Block) : (s.withBlock b).block = b := rfl
@[simp] theorem State.withBlock_host (s : State) (b : Block) : (s.withBlock b).host = s.host := rfl
@[simp] theorem State.withBlock_inputs (s : State) (b : Block) : (s.withBlock b).inputs = s.inputs := rfl
@[simp] theorem State.withBlock_picks (s : State) (b : Block) : (s.withBlock b).picks = s.picks := rfl

@[simp] theorem State.withHost_cfg (s : State) (h : HostState) : (s.withHost h).cfg = s.cfg := rfl
@[simp] theorem State.withHost_block (s : State) (h : HostState) : (s.withHost h).block = s.block := rfl
@[simp] theorem State.withHost_host (s : State) (h : HostState) : (s.withHost h).host = h := rfl
@[simp] theorem State.withHost_inputs (s : State) (h : HostState) : (s.withHost h).inputs = s.inputs := rfl
@[simp] theorem State.withHost_picks (s : State) (h : HostState) : (s.withHost h).picks = s.picks := rfl

@[simp] theorem State.withInputs_cfg (s : State) (is : List Input) : (s.withInputs is).cfg = s.cfg := rfl
@[simp] theorem State.withInputs_block (s : State) (is : List Input) : (s.withInputs is).block = s.block := rfl
@[simp] theorem State.withInputs_host (s : State) (is : List Input) : (s.withInputs is).host = s.host := rfl
@[simp] theorem State.withInputs_inputs (s : State) (is : List Input) : (s.withInputs is).inputs = is := rfl
@[simp] theorem State.withInputs_picks (s : State) (is : List Input) : (s.withInputs is).picks = s.picks := rfl

@[simp] theorem arrive_cfg (e : Event) (s : State) : (arrive e s).cfg = s.cfg := rfl
@[simp] theorem arrive_block (e : Event) (s : State) : (arrive e s).block = s.block := rfl
@[simp] theorem arrive_inputs (e : Event) (s : State) : (arrive e s).inputs = s.inputs := rfl
@[simp] theorem arrive_picks (e : Event) (s : State) : (arrive e s).picks = s.picks := rfl
@[simp] theorem arrive_host (e : Event) (s : State) :
    (arrive e s).host =
      { s.host with
        pend := s.host.pend.setCount e
          (kept s.cfg.pendLimit (s.host.masked (level s.cfg.hostVariant e)) (s.host.pend.count e)) } := rfl

@[simp] theorem takeEvent_cfg (p : Pick) (e : Event) (s : State) : (takeEvent p e s).cfg = s.cfg := rfl
@[simp] theorem takeEvent_block (p : Pick) (e : Event) (s : State) : (takeEvent p e s).block = s.block := rfl
@[simp] theorem takeEvent_inputs (p : Pick) (e : Event) (s : State) : (takeEvent p e s).inputs = s.inputs := rfl
@[simp] theorem takeEvent_picks (p : Pick) (e : Event) (s : State) : (takeEvent p e s).picks = s.picks + 1 := rfl

@[simp] theorem HostState.start_up (h : HostState) (l : Level) (cs : List Instr) : (h.start l cs).up = h.up := by
  cases l <;> rfl
@[simp] theorem HostState.start_sweep (h : HostState) (l : Level) (cs : List Instr) : (h.start l cs).sweep = h.sweep := by
  cases l <;> rfl
@[simp] theorem HostState.start_pend (h : HostState) (l : Level) (cs : List Instr) : (h.start l cs).pend = h.pend := by
  cases l <;> rfl
@[simp] theorem HostState.start_high_high (h : HostState) (cs : List Instr) : (h.start .high cs).high = cs := rfl
@[simp] theorem HostState.start_high_low (h : HostState) (cs : List Instr) : (h.start .high cs).low = h.low := rfl
@[simp] theorem HostState.start_low_low (h : HostState) (cs : List Instr) : (h.start .low cs).low = cs := rfl
@[simp] theorem HostState.start_low_high (h : HostState) (cs : List Instr) : (h.start .low cs).high = h.high := rfl

@[simp] theorem State.resetWith_cfg (c : Config) : (State.resetWith c).cfg = c := rfl
@[simp] theorem State.resetWith_host (c : Config) : (State.resetWith c).host = HostState.initial := rfl
@[simp] theorem State.resetWith_inputs (c : Config) : (State.resetWith c).inputs = [] := rfl
@[simp] theorem State.resetWith_picks (c : Config) : (State.resetWith c).picks = 0 := rfl
@[simp] theorem State.resetWith_block (c : Config) : (State.resetWith c).block = Block.afterReset c := rfl
@[simp] theorem resetBlock_slot (c : Config) : (resetBlock c).slot = 0 := rfl
@[simp] theorem Block.afterReset_slot (c : Config) : (Block.afterReset c).slot = 0 := rfl
@[simp] theorem resetBlock_pos (c : Config) : (resetBlock c).pos = 0 := rfl
@[simp] theorem Block.afterReset_pos (c : Config) : (Block.afterReset c).pos = 0 := rfl
@[simp] theorem resetBlock_oh (c : Config) : (resetBlock c).oh = 0 := rfl
@[simp] theorem Block.afterReset_oh (c : Config) : (Block.afterReset c).oh = 0 := rfl
@[simp] theorem resetBlock_ol (c : Config) : (resetBlock c).ol = 0 := rfl
@[simp] theorem Block.afterReset_ol (c : Config) : (Block.afterReset c).ol = 0 := rfl
@[simp] theorem resetBlock_live (c : Config) : (resetBlock c).live = true := rfl
@[simp] theorem Block.afterReset_live (c : Config) : (Block.afterReset c).live = true := rfl

end Sys2Proof.Machine
end

