-- ==== Sys2Proof/Laws/Ops.lean ====
section
/-! SUPPORT. One lemma per shared operation: when it answers a next state, and which one. Later proofs cite these and do not unfold
the operations. -/

namespace Sys2Proof.Machine

theorem configured_next_iff {s t : State} {k : Result} :
    configured s k = .next t ↔ s.cfg.Valid ∧ k = .next t := by
  unfold configured
  split
  · next h => exact ⟨fun e => ⟨h, e⟩, And.right⟩
  · next h => simp [h]

theorem inService_next_iff {s t : State} {k : Result} :
    inService s k = .next t ↔ s.cfg.Valid ∧ s.block.live = true ∧ k = .next t := by
  unfold inService
  rw [configured_next_iff]
  cases s.block.live <;> simp

theorem encoded_next_iff {s t : State} {p : Int} {k : Nat → Result} :
    encoded s p k = .next t ↔ s.cfg.InRange p ∧ k (dutyNat s.cfg p) = .next t := by
  unfold encoded
  split
  · next h => exact ⟨fun e => ⟨h, e⟩, And.right⟩
  · next h => simp [h]

theorem noEffect_next_iff {s t : State} :
    noEffect s = .next t ↔ s.cfg.Valid ∧ s.block.live = true ∧ t = s := by
  simp only [noEffect, inService_next_iff, Host.Outcome.next.injEq, eq_comm (a := s)]

theorem resetTo_next_iff {s t : State} :
    resetTo s = .next t ↔ s.cfg.Valid ∧ t = s.withBlock (resetBlock s.cfg) := by
  simp only [resetTo, configured_next_iff, Host.Outcome.next.injEq, eq_comm (b := t)]

theorem inService_of_valid {s : State} {k : Result} (hv : s.cfg.Valid) (hl : s.block.live = true) :
    inService s k = k := by
  simp only [inService, configured, if_pos hv, hl, if_true]

theorem encoded_of_inRange {s : State} {p : Int} {k : Nat → Result} (hp : s.cfg.InRange p) :
    encoded s p k = k (dutyNat s.cfg p) := if_pos hp

theorem configured_of_valid {s : State} {k : Result} (hv : s.cfg.Valid) : configured s k = k := if_pos hv

/-- A coarse encoding within contract is exact: no borrow and no carry. -/
theorem dutyNat_coarse {c : Config} (hv : c.Valid) (hm : c.encMode = .coarse) {p : Int} (hp : c.InRange p) :
    ((dutyNat c p : Nat) : Int) = c.baseOffset + p ∧ dutyNat c p ≤ 255 := by
  obtain ⟨-, hc, -, -⟩ := hv
  obtain ⟨h1, h2⟩ := hc hm
  simp only [dutyNat, encodeDuty, hm]
  omega

/-- A fine encoding within contract is exact: no borrow and no carry. -/
theorem dutyNat_fine {c : Config} (hv : c.Valid) (hm : c.encMode = .fine) {p : Int} (hp : c.InRange p) :
    ((dutyNat c p : Nat) : Int) = c.center + p ∧ dutyNat c p ≤ 2 ^ c.rawWidth - 1 := by
  obtain ⟨-, -, hc, -⟩ := hv
  obtain ⟨h1, h2⟩ := hc hm
  simp only [dutyNat, encodeDuty, hm]
  omega

theorem highOf_eq (raw : Nat) : highOf raw = raw / 4 := Nat.shiftRight_eq_div_pow raw 2

theorem lowOf_toNat (raw : Nat) : (lowOf raw).toNat = raw % 4 := by
  have h : raw &&& 3 = raw % 4 := Nat.and_two_pow_sub_one_eq_mod raw 2
  simp [lowOf, h]

/-- The high field of a raw value fits HIGH_WIDTH bits. -/
theorem highOf_lt {c : Config} {raw : Nat} (h : raw ≤ 2 ^ c.rawWidth - 1) : highOf raw < 2 ^ c.highWidth := by
  have hp : 0 < 2 ^ c.highWidth := Nat.two_pow_pos _
  rw [Config.rawWidth, pow_add] at h
  rw [highOf_eq]
  omega

/-- The two fields lie side by side in the raw value. -/
theorem rawOf_eq (h : Nat) (l : LowField) : rawOf h l = 4 * h + l.toNat := by
  rw [rawOf, ← Nat.shiftLeft_add_eq_or_of_lt l.isLt, Nat.shiftLeft_eq]
  omega

theorem dutyOf_of_le {duty : Nat} (h : duty ≤ 255) : dutyOf duty = duty := Nat.mod_eq_of_lt (by omega)

/-- In COARSE mode `oh` is as wide as the coarse duty value. -/
theorem outWidth_coarse {c : Config} (hm : c.encMode = .coarse) : c.outWidth = 8 := by simp [Config.outWidth, hm]

/-- In FINE mode `oh` is as wide as the high field. -/
theorem outWidth_fine {c : Config} (hm : c.encMode = .fine) : c.outWidth = c.highWidth := by simp [Config.outWidth, hm]

/-- An in-range position survives the position register. -/
theorem posOf_toInt {c : Config} (hv : c.Valid) {p : Int} (hp : c.InRange p) : (posOf p).toInt = p := by
  obtain ⟨h1, -, -, -⟩ := hv
  simp only [posOf, BitVec.toInt_ofInt]
  apply Int.bmod_eq_of_le <;> omega

theorem isPulseSlot_eq_true_iff (v : Slot) : isPulseSlot v = true ↔ v = 0 := by
  revert v; decide

theorem isLastSlot_eq_true_iff (v : Slot) : isLastSlot v = true ↔ v = 9 := by
  revert v; decide

theorem nextSlot_val (v : Slot) : (nextSlot v).val = (v.val + 1) % 10 := by
  revert v; decide

@[simp] theorem Pending.count_setCount (p : Pending) (e e' : Event) (k : Nat) :
    (p.setCount e k).count e' = if e' = e then k else p.count e' := by
  cases e <;> cases e' <;> simp [Pending.setCount, Pending.count]

/-- An event of a masked level is kept up to the limit. -/
theorem kept_masked (limit waiting : Nat) : kept limit true waiting = if waiting < limit then waiting + 1 else waiting := by
  simp only [kept, if_true]
  split <;> omega

/-- An event of a free level is kept up to the limit, the first one always (log 12). -/
theorem kept_free (limit waiting : Nat) :
    kept limit false waiting = if waiting = 0 ∨ waiting < limit then waiting + 1 else waiting := by
  simp only [kept, Bool.false_eq_true, if_false]
  split <;> omega

/-- The event that is served is one of those that wait. -/
theorem choose_mem (k : Nat) (e : Event) (es : List Event) : choose k e es ∈ e :: es := by
  cases es with
  | nil => simp [choose]
  | cons a as =>
    have h : k % ((a :: as).length + 1) < (e :: a :: as).length := by
      simpa using Nat.mod_lt k (Nat.succ_pos _)
    rw [choose, List.getD_eq_getElem _ _ h]
    exact List.getElem_mem h

/-- The events that wait at a level are those of that level with a positive count. -/
theorem mem_waiting_iff {s : State} {l : Level} {e : Event} :
    e ∈ waiting s l ↔ level s.cfg.hostVariant e = l ∧ 0 < s.host.pend.count e := by
  cases e <;> simp [waiting]

/-- What a host's move can be, said once: a command of the handler in progress, the taking of a waiting event, `initialize()`, or
nothing. -/
theorem hostMove_cases (p : Pick) (s : State) :
    (s.host.up = false ∧ hostMove p s = initializeAll s) ∨
    (s.host.up = true ∧ ∃ c rest, s.host.high = c :: rest ∧
      hostMove p s = exec c (s.withHost { s.host with high := rest })) ∨
    (s.host.up = true ∧ s.host.high = [] ∧ ∃ e ∈ waiting s .high, hostMove p s = .next (takeEvent p e s)) ∨
    (s.host.up = true ∧ s.host.high = [] ∧ waiting s .high = [] ∧ ∃ c rest, s.host.low = c :: rest ∧
      hostMove p s = exec c (s.withHost { s.host with low := rest })) ∨
    (s.host.up = true ∧ s.host.high = [] ∧ waiting s .high = [] ∧ s.host.low = [] ∧
      ∃ e ∈ waiting s .low, hostMove p s = .next (takeEvent p e s)) ∨
    (s.host.up = true ∧ s.host.high = [] ∧ waiting s .high = [] ∧ s.host.low = [] ∧ waiting s .low = [] ∧
      hostMove p s = .next s) := by
  cases hu : s.host.up with
  | false => simp [hostMove, hu]
  | true =>
    cases hh : s.host.high with
    | cons c rest => simp [hostMove, hu, hh]
    | nil =>
      cases hw : waiting s .high with
      | cons e es =>
        have := choose_mem p.event e es
        simp only [hostMove, hu, hh, hw, if_true]
        exact .inr (.inr (.inl ⟨trivial, trivial, _, this, rfl⟩))
      | nil =>
        cases hl : s.host.low with
        | cons c rest => simp [hostMove, hu, hh, hw, hl]
        | nil =>
          cases hwl : waiting s .low with
          | cons e es =>
            have := choose_mem p.event e es
            simp only [hostMove, hu, hh, hw, hl, hwl, if_true]
            exact .inr (.inr (.inr (.inr (.inl ⟨trivial, trivial, trivial, trivial, _, this, rfl⟩))))
          | nil => simp [hostMove, hu, hh, hw, hl, hwl]

end Sys2Proof.Machine
end

