-- ==== Sys2Proof/Laws/Exec.lean ====
section
/-! SUPPORT. What one command can do, said once. -/

namespace Sys2Proof.Machine

/-- INIT's assignments and reset's are the same (R63, R134). -/
theorem resetBlock_eq (c : Config) : resetBlock c = Block.afterReset c := by
  unfold resetBlock Block.afterReset
  cases hm : c.encMode <;> simp [highOf, lowOf, dutyNat, encodeDuty, hm]

/-- Everything a command can do when it goes on: INIT; or, in a block that has been reset, nothing, one of TICK's three renderings, or
the registers of one encoder command. -/
theorem exec_cases {i : Instr} {s t : State} (h : exec i s = .next t) :
    s.cfg.Valid ∧
      ((i = .init ∧ t = s.withBlock (resetBlock s.cfg)) ∨
        (s.block.live = true ∧
          ((t = s ∧ i ≠ .tick ∧ i ≠ .init ∧ (∀ p, i ≠ .loadp p) ∧ (∀ p, i ≠ .setpos p) ∧
              (s.cfg.encMode = .fine → i ≠ .ench ∧ i ≠ .encl)) ∨
            (i = .tick ∧ s.block.slot = 0 ∧ s.cfg.encMode = .coarse ∧ s.cfg.InRange s.block.intPos ∧
              t = s.withBlock (s.block.setOut (dutyOf (dutyNat s.cfg s.block.intPos)) 0).advance) ∨
            (i = .tick ∧ s.block.slot = 0 ∧ s.cfg.encMode = .fine ∧
              t = s.withBlock (s.block.setOut s.block.sh s.block.sl).advance) ∨
            (i = .tick ∧ s.block.slot ≠ 0 ∧ t = s.withBlock (s.block.setOut 0 0).advance) ∨
            (∃ p, i = .loadp p ∧ s.cfg.InRange p ∧ s.cfg.encMode = .coarse ∧
              t = s.withBlock (s.block.setPos (posOf p))) ∨
            (∃ p, i = .loadp p ∧ s.cfg.InRange p ∧ s.cfg.encMode = .fine ∧
              t = s.withBlock (((s.block.setPos (posOf p)).writeHigh (highOf (dutyNat s.cfg p))).writeLow
                (lowOf (dutyNat s.cfg p)))) ∨
            (∃ p, i = .setpos p ∧ s.cfg.InRange p ∧ t = s.withBlock (s.block.setPos (posOf p))) ∨
            (i = .ench ∧ s.cfg.encMode = .fine ∧ s.cfg.InRange s.block.intPos ∧
              t = s.withBlock (s.block.writeHigh (highOf (dutyNat s.cfg s.block.intPos)))) ∨
            (i = .encl ∧ s.cfg.encMode = .fine ∧ s.cfg.InRange s.block.intPos ∧
              t = s.withBlock (s.block.writeLow (lowOf (dutyNat s.cfg s.block.intPos))))))) := by
  cases i
  case init =>
    obtain ⟨hv, rfl⟩ := resetTo_next_iff.1 h
    exact ⟨hv, .inl ⟨rfl, rfl⟩⟩
  case tick =>
    obtain ⟨hv, hl, h⟩ := inService_next_iff.1 h
    refine ⟨hv, .inr ⟨hl, .inr ?_⟩⟩
    by_cases h0 : s.block.slot = 0
    · have hs : isPulseSlot s.block.slot = true := by simp [isPulseSlot, h0]
      rw [hs, if_pos rfl] at h
      cases hm : s.cfg.encMode with
      | coarse =>
        rw [hm] at h
        obtain ⟨hp, h⟩ := encoded_next_iff.1 h
        exact .inl ⟨rfl, h0, rfl, hp, by simpa using h.symm⟩
      | fine =>
        rw [hm] at h
        exact .inr (.inl ⟨rfl, h0, rfl, by simpa using h.symm⟩)
    · have hs : isPulseSlot s.block.slot = false := by simp [isPulseSlot, h0]
      rw [hs] at h
      exact .inr (.inr (.inl ⟨rfl, h0, by simpa using h.symm⟩))
  case loadp p =>
    obtain ⟨hv, hl, h⟩ := inService_next_iff.1 h
    obtain ⟨hp, h⟩ := encoded_next_iff.1 h
    refine ⟨hv, .inr ⟨hl, .inr (.inr (.inr (.inr ?_)))⟩⟩
    cases hm : s.cfg.encMode with
    | coarse => rw [hm] at h; exact .inl ⟨p, rfl, hp, rfl, by simpa using h.symm⟩
    | fine => rw [hm] at h; exact .inr (.inl ⟨p, rfl, hp, rfl, by simpa using h.symm⟩)
  case setpos p =>
    obtain ⟨hv, hl, h⟩ := inService_next_iff.1 h
    obtain ⟨hp, h⟩ := encoded_next_iff.1 h
    exact ⟨hv, .inr ⟨hl, .inr (.inr (.inr (.inr (.inr (.inr (.inl ⟨p, rfl, hp, by simpa using h.symm⟩))))))⟩⟩
  case ench =>
    obtain ⟨hv, hl, h⟩ := inService_next_iff.1 h
    refine ⟨hv, .inr ⟨hl, ?_⟩⟩
    cases hm : s.cfg.encMode with
    | coarse => rw [hm] at h; exact .inl ⟨by simpa using h.symm, by simp⟩
    | fine =>
      rw [hm] at h
      obtain ⟨hp, h⟩ := encoded_next_iff.1 h
      exact .inr (.inr (.inr (.inr (.inr (.inr (.inr (.inl ⟨rfl, rfl, hp, by simpa using h.symm⟩)))))))
  case encl =>
    obtain ⟨hv, hl, h⟩ := inService_next_iff.1 h
    refine ⟨hv, .inr ⟨hl, ?_⟩⟩
    cases hm : s.cfg.encMode with
    | coarse => rw [hm] at h; exact .inl ⟨by simpa using h.symm, by simp⟩
    | fine =>
      rw [hm] at h
      obtain ⟨hp, h⟩ := encoded_next_iff.1 h
      exact .inr (.inr (.inr (.inr (.inr (.inr (.inr (.inr ⟨rfl, rfl, hp, by simpa using h.symm⟩)))))))
  all_goals
    obtain ⟨hv, hl, rfl⟩ := noEffect_next_iff.1 h
    exact ⟨hv, .inr ⟨hl, .inl ⟨rfl, by simp⟩⟩⟩

end Sys2Proof.Machine
end

