-- ==== Sys2Proof/Laws/PerInstr.lean ====
section
/-! SUPPORT. Facts stated per instruction: the family CanonicalWord says which row of the opcode table a command's canonical word lies
in, and that a command without an operand has the argument byte 0x00 (30_encoding.md R45, R53). -/

namespace Sys2Proof.Laws.CanonicalWord

/-- The canonical word's upper nibble is the command's opcode, and its lower byte the argument byte. -/
def Statement (i : Instr) : Prop := opField (encode i) = i.opcode ∧ argField (encode i) = i.argByte

theorem fields_of_append (op : BitVec 4) (arg : BitVec 8) :
    opField (op ++ arg) = op ∧ argField (op ++ arg) = arg := by
  constructor
  · show (op ++ arg).extractLsb' 8 4 = op
    ext i hi
    rw [BitVec.getElem_extractLsb', BitVec.getLsbD_append]
    simp [← BitVec.getLsbD_eq_getElem]
  · show (op ++ arg).extractLsb' 0 8 = arg
    ext i hi
    rw [BitVec.getElem_extractLsb', BitVec.getLsbD_append]
    simp [hi]

theorem nop : Statement .nop := fields_of_append _ _
theorem tick : Statement .tick := fields_of_append _ _
theorem loadp (p : Int) : Statement (.loadp p) := fields_of_append _ _
theorem setpos (p : Int) : Statement (.setpos p) := fields_of_append _ _
theorem ench : Statement .ench := fields_of_append _ _
theorem encl : Statement .encl := fields_of_append _ _
theorem init : Statement .init := fields_of_append _ _
theorem rsvd7 : Statement .rsvd7 := fields_of_append _ _
theorem rsvd8 : Statement .rsvd8 := fields_of_append _ _
theorem rsvd9 : Statement .rsvd9 := fields_of_append _ _
theorem rsvd10 : Statement .rsvd10 := fields_of_append _ _
theorem rsvd11 : Statement .rsvd11 := fields_of_append _ _
theorem rsvd12 : Statement .rsvd12 := fields_of_append _ _
theorem rsvd13 : Statement .rsvd13 := fields_of_append _ _
theorem rsvd14 : Statement .rsvd14 := fields_of_append _ _
theorem rsvd15 : Statement .rsvd15 := fields_of_append _ _

end Sys2Proof.Laws.CanonicalWord
end

