-- ==== Sys2Proof/Laws/Step.lean ====
section
/-! SUPPORT. What one step does, said once. -/

namespace Sys2Proof.Machine

theorem step_next_iff {s t : State} :
    step s = .next t ↔ s.cfg.Valid ∧
      ((s.inputs = [] ∧ hostMove (pickNow s) s = .next t) ∨
        ∃ i rest, s.inputs = i :: rest ∧ onInput i (s.withInputs rest) = .next t) := by
  unfold step
  rw [configured_next_iff]
  cases h : s.inputs with
  | nil => simp [onInput]
  | cons i rest => simp

@[simp] theorem State.withFetchWord_inputs (s : State) (nbits w : Nat) :
    (s.withFetchWord nbits w).inputs =
      .port { rst := false, cmdValid := true, cmd := BitVec.ofNat 12 (w % 2 ^ nbits) } :: s.inputs := rfl

end Sys2Proof.Machine
end

