-- ==== Sys2Proof/Tests/Slice0.lean ====
section
/-! SUPPORT. Tests: the well-formedness check, decoding of words written out from the encoding, one-step examples of
95_test_vectors.md (Part 2 and 3, named V and P there), and for every statement with hypotheses a witness that meets them. Expected
values are the spec's own. -/

namespace Sys2Proof.Tests

open Sys2Proof.Machine Sys2Proof.Safety

/-! ### Helpers -/

/-- A FINE state as the spec writes it, `(slot, pos, sh, sl, oh, ol)`, under PROFILE_F. -/
def fine (slot : Slot) (pos : Int) (sh sl oh ol : Nat) : State :=
  (State.resetWith Config.profileF).withBlock
    ⟨slot, BitVec.ofInt 8 pos, sh, BitVec.ofNat 2 sl, oh, BitVec.ofNat 2 ol, true⟩

/-- A COARSE state as the spec writes it, `(slot, pos, oh, ol)`, under PROFILE_C. -/
def coarse (slot : Slot) (pos : Int) (oh ol : Nat) : State :=
  (State.resetWith Config.profileC).withBlock
    ⟨slot, BitVec.ofInt 8 pos, 0, 0, oh, BitVec.ofNat 2 ol, true⟩

/-- The sweep host's state `[sweepState, speed, dir, n]` over a block state. -/
def sweeping (st : SweepState) (speed : Nat) (dir : Direction) (n : Nat) (s : State) : State :=
  s.withHost { s.host with sweep := ⟨st, speed, dir, n⟩ }

/-- The registers a command leaves, in the order of `fine`. -/
def registers (r : Result) : Option (Nat × Int × Nat × Nat × Nat × Nat) :=
  match r with
  | .next t =>
    some (t.block.slot.val, t.block.pos.toInt, t.block.sh, t.block.sl.toNat, t.block.oh, t.block.ol.toNat)
  | .fault _ => none
  | .refused _ => none

/-- Why a command was refused. -/
def refusal (r : Result) : Option Refusal :=
  match r with
  | .next _ => none
  | .fault _ => none
  | .refused r => some r

/-- A block that has never been reset, with arbitrary contents (V29). -/
def neverReset : State := (fine 4 5 6 1 8 3).withBlock { (fine 4 5 6 1 8 3).block with live := false }

/-! ### Well-formedness: an ill-formed term for each check (R46) -/

theorem test_loadp_operand_too_large : (Instr.loadp 128).wf = false := by decide
theorem test_loadp_operand_too_small : (Instr.loadp (-129)).wf = false := by decide
theorem test_setpos_operand_too_large : (Instr.setpos 128).wf = false := by decide
theorem test_setpos_operand_too_small : (Instr.setpos (-129)).wf = false := by decide
theorem test_operand_bounds_well_formed : (Instr.loadp 127).wf = true ∧ (Instr.setpos (-128)).wf = true := by decide

/-! ### Decoding (R45, V30, V31) -/

theorem test_decode_nop : decode 0b0000_00000000 = .nop ∧ decode 0b0000_11111111 = .nop := by decide
theorem test_decode_tick : decode 0b0001_00000000 = .tick ∧ decode 0b0001_10100101 = .tick := by decide
theorem test_decode_loadp :
    decode 0b0010_00001010 = .loadp 10 ∧ decode 0b0010_10000011 = .loadp (-125) ∧
    decode 0b0010_10000000 = .loadp (-128) ∧ decode 0b0010_01111111 = .loadp 127 := by decide
theorem test_decode_setpos :
    decode 0b0011_00001010 = .setpos 10 ∧ decode 0b0011_11111111 = .setpos (-1) ∧
    decode 0b0011_11100001 = .setpos (-31) := by decide
theorem test_decode_ench : decode 0b0100_00000000 = .ench ∧ decode 0b0100_11111111 = .ench := by decide
theorem test_decode_encl : decode 0b0101_00000000 = .encl := by decide
theorem test_decode_init : decode 0b0110_00000000 = .init ∧ decode 0b0110_10101011 = .init := by decide
theorem test_decode_reserved :
    decode 0b0111_00000000 = .rsvd7 ∧ decode 0b1000_00000000 = .rsvd8 ∧ decode 0b1001_00000000 = .rsvd9 ∧
    decode 0b1010_00000000 = .rsvd10 ∧ decode 0b1011_00000000 = .rsvd11 ∧ decode 0b1100_00000000 = .rsvd12 ∧
    decode 0b1101_00000000 = .rsvd13 ∧ decode 0b1110_00000000 = .rsvd14 ∧ decode 0b1111_00000000 = .rsvd15 ∧
    decode 0b1111_11111111 = .rsvd15 := by decide
theorem test_encode_is_canonical :
    encode (decode 0x1A5) = 0x100 ∧ encode (decode 0x283) = 0x283 ∧ encode (.setpos (-1)) = 0x3FF := by decide
theorem test_table_word :
    decodeTableWord 16 0x20A = some (.loadp 10) ∧ decodeTableWord 16 0x1000 = none := by decide
theorem test_opcode_table_rows_disjoint :
    opcodeTable.Pairwise (fun r r' => r.mask &&& r'.mask = 0xF00 ∧ r.pattern ≠ r'.pattern) := by decide

/-! ### The assembler (R53's own examples) -/

theorem test_assemble_examples :
    (assemble [['T', 'I', 'C', 'K'], ['L', 'O', 'A', 'D', 'P', ' ', '1', '0'],
      ['L', 'O', 'A', 'D', 'P', ' ', '-', '1', '2', '5', ' ', ';', 'x'], ['S', 'E', 'T', 'P', 'O', 'S', ' ', '-', '1'],
      ['I', 'N', 'I', 'T']]).toOption = some [0x100, 0x20A, 0x283, 0x3FF, 0x600] := by decide
theorem test_assemble_reserved :
    (assemble [['R', 'S', 'V', 'D', ' ', '1', '2']]).toOption = some [0xC00] ∧
    (assemble [['R', 'S', 'V', 'D', ' ', '6']]).toOption = none := by decide
theorem test_assemble_operand_out_of_field :
    (assemble [['L', 'O', 'A', 'D', 'P', ' ', '1', '2', '8']]).toOption = none := by decide

/-! ### The encoder's functions (V1, V2) -/

theorem test_fields_of_positions :
    [-125, -1, 0, 3, 4, 125].map (fun p => fieldsOf (dutyNat Config.profileF p)) =
      [(96, 3), (127, 3), (128, 0), (128, 3), (129, 0), (159, 1)] := by decide
theorem test_coarse_duty : [-31, 0, 31].map (fun p => dutyNat Config.profileC p) = [97, 128, 159] := by decide
theorem test_raw_of_fields : rawOf 96 3 = 387 ∧ rawOf 159 1 = 637 := by decide

/-! ### The commands (V3 to V29) -/

theorem test_nop_repairs_nothing : registers (exec .nop (fine 0 (-125) 96 0 96 0)) = some (0, -125, 96, 0, 96, 0) := by decide
theorem test_tick_pulse_slot_coarse : registers (exec .tick (coarse 0 (-31) 0 0)) = some (1, -31, 0, 0, 97, 0) := by decide
theorem test_tick_wraps_and_clears : registers (exec .tick (fine 9 10 130 2 130 2)) = some (0, 10, 130, 2, 0, 0) := by decide
theorem test_loadp_lowest : registers (exec (.loadp (-125)) (fine 4 0 128 0 0 0)) = some (4, -125, 96, 3, 96, 3) := by decide
theorem test_loadp_coarse : registers (exec (.loadp 31) (coarse 4 0 128 0)) = some (4, 31, 0, 0, 128, 0) := by decide
theorem test_setpos_tears : registers (exec (.setpos 10) (fine 4 0 128 0 0 0)) = some (4, 10, 128, 0, 0, 0) := by decide
theorem test_setpos_out_of_range :
    refusal (exec (.setpos (-126)) (fine 4 0 128 0 0 0)) = some .positionOutOfRange ∧
    refusal (exec (.setpos 32) (coarse 4 0 0 0)) = some .positionOutOfRange := by decide
theorem test_ench_fine : registers (exec .ench (fine 4 10 128 0 0 0)) = some (4, 10, 130, 0, 130, 0) := by decide
theorem test_ench_coarse : registers (exec .ench (coarse 1 (-31) 159 0)) = some (1, -31, 0, 0, 159, 0) := by decide
theorem test_encl_fine : registers (exec .encl (fine 4 10 128 0 0 0)) = some (4, 10, 128, 2, 0, 2) := by decide
theorem test_encl_never_reset : refusal (exec .encl neverReset) = some .neverReset := by decide
theorem test_init_mid_cycle : registers (exec .init (fine 7 (-40) 118 0 118 0)) = some (0, 0, 128, 0, 0, 0) := by decide
theorem test_init_never_reset : registers (exec .init neverReset) = some (0, 0, 128, 0, 0, 0) := by decide
theorem test_reserved_change_nothing :
    ∀ i ∈ [Instr.rsvd7, .rsvd8, .rsvd9, .rsvd10, .rsvd11, .rsvd12, .rsvd13, .rsvd14, .rsvd15],
      registers (exec i (fine 3 10 130 2 0 0)) = some (3, 10, 130, 2, 0, 0) := by decide

/-! ### Ports and the step (V29, R32) -/

theorem test_step_runs_the_placed_word :
    registers (step (State.reset.withFetchWord 16 0x27D)) = some (0, 125, 159, 1, 159, 1) := by decide
theorem test_reset_wins_over_command :
    registers (step ((fine 4 5 6 1 8 3).withInputs [.port ⟨true, true, 0x20A⟩])) = some (0, 0, 128, 0, 0, 0) := by decide
theorem test_idle_edge_changes_nothing :
    registers (step ((fine 4 5 6 1 8 3).withInputs [.port ⟨false, false, 0x20A⟩])) = some (4, 5, 6, 1, 8, 3) := by decide
theorem test_largest_center :
    registers (exec (.loadp 125) (State.resetWith { Config.profileF with center := 898 })) = some (0, 125, 255, 3, 255, 3) ∧
    refusal (exec .init (State.resetWith { Config.profileF with center := 899 })) = some .notThisHardware := by decide

/-- A deployment with a HIGH_WIDTH of 10 (R6, 93 G1): raw values of 12 bits, here 2048 + 125 = 2173 = 4 * 543 + 1. -/
theorem test_wider_high_field :
    registers (exec (.loadp 125) (State.resetWith { Config.profileF with highWidth := 10, center := 2048 })) =
      some (0, 125, 543, 1, 543, 1) ∧
    refusal (exec .init (State.resetWith { Config.profileF with center := 2048 })) = some .notThisHardware := by decide

/-! ### The hosts (V40 to V61, P5, P6) -/

/-- A choice of the two open orders. -/
def pick (event : Nat) (highFirst : Bool) : Pick := ⟨event, highFirst⟩

theorem test_sweep_turns_at_positive_bound :
    (takeEvent (pick 0 true) .tick (sweeping .singleSweep 10 .up 9 (coarse 0 31 0 0))).host.sweep = ⟨.singleSweep, 10, .down, 0⟩ ∧
    (takeEvent (pick 0 true) .tick (sweeping .singleSweep 10 .up 9 (coarse 0 31 0 0))).host.high = [.loadp 31, .tick] := by decide
/-- TICK_ORDER = SEQUENCER_FIRST: the sequencer before the controller's step (92 D16). -/
theorem test_sequencer_first :
    (takeEvent (pick 0 true) .tick { sweeping .singleSweep 10 .up 9 (coarse 0 31 0 0) with
      cfg := { Config.profileC with tickOrder := .sequencerFirst } }).host.high = [.tick, .loadp 31] := by decide
theorem test_single_sweep_stops_at_negative_bound :
    (takeEvent (pick 0 true) .tick (sweeping .singleSweep 10 .down 9 (coarse 0 (-31) 0 0))).host.sweep = ⟨.stopped, 10, .down, 0⟩ ∧
    (takeEvent (pick 0 true) .tick (sweeping .singleSweep 10 .down 9 (coarse 0 (-31) 0 0))).host.high = [.loadp (-31), .tick] := by decide
theorem test_continuous_sweep_turns_at_negative_bound :
    (takeEvent (pick 0 true) .tick (sweeping .continuousSweep 10 .down 9 (coarse 0 (-31) 0 0))).host.sweep =
      ⟨.continuousSweep, 10, .up, 0⟩ := by decide
theorem test_toggled_speed_steps_at_once :
    (takeEvent (pick 0 true) .tick (sweeping .continuousSweep 5 .up 7 (coarse 7 0 0 0))).host.sweep = ⟨.continuousSweep, 5, .up, 0⟩ ∧
    (takeEvent (pick 0 true) .tick (sweeping .continuousSweep 5 .up 7 (coarse 7 0 0 0))).host.high = [.loadp 1, .tick] := by decide
theorem test_arrival_at_bound_does_not_turn :
    (takeEvent (pick 0 true) .tick (sweeping .singleSweep 10 .up 9 (coarse 9 30 0 0))).host.sweep = ⟨.singleSweep, 10, .up, 0⟩ ∧
    (takeEvent (pick 0 true) .tick (sweeping .singleSweep 10 .up 9 (coarse 9 30 0 0))).host.high = [.loadp 31, .tick] := by decide
theorem test_stopped_tick_issues_tick_only :
    (takeEvent (pick 0 true) .tick (sweeping .stopped 10 .down 0 (coarse 0 (-31) 0 0))).host.sweep = ⟨.stopped, 10, .down, 0⟩ ∧
    (takeEvent (pick 0 true) .tick (sweeping .stopped 10 .down 0 (coarse 0 (-31) 0 0))).host.high = [.tick] := by decide
theorem test_button_a_ends_continuous_sweep :
    (Sweep.onButtonA ⟨.continuousSweep, 5, .up, 0⟩) = ⟨.singleSweep, 5, .up, 0⟩ := by decide
theorem test_button_b_starts_and_toggles :
    (Sweep.onButtonB ⟨.stopped, 10, .down, 0⟩) = ⟨.continuousSweep, 10, .up, 0⟩ ∧
    (Sweep.onButtonB ⟨.continuousSweep, 10, .up, 7⟩) = ⟨.continuousSweep, 5, .up, 7⟩ ∧
    (Sweep.onButtonB ⟨.singleSweep, 5, .up, 0⟩) = ⟨.singleSweep, 5, .up, 0⟩ := by decide
theorem test_move_saturates : moveTarget 120 10 = 125 ∧ moveTarget 125 (-10) = 115 ∧ moveTarget (-120) (-10) = -125 := by decide
theorem test_split_move_both_orders :
    (takeEvent (pick 0 true) .buttonA (fine 4 0 128 0 0 0)).host.low = [.setpos 10, .ench, .encl] ∧
    (takeEvent (pick 0 false) .buttonA (fine 4 0 128 0 0 0)).host.low = [.setpos 10, .encl, .ench] := by decide

/-- V60's state: Tick and ButtonA wait together in the sweep variant. -/
def bothWaiting : State :=
  (sweeping .stopped 10 .up 0 (coarse 0 0 0 0)).withHost
    { (sweeping .stopped 10 .up 0 (coarse 0 0 0 0)).host with pend := ⟨1, 1, 0⟩ }

/-- The host after a result. -/
def hostOf (r : Result) : Option HostState :=
  match r with
  | .next t => some t.host
  | .fault _ => none
  | .refused _ => none

theorem test_same_level_either_order :
    (hostOf (hostMove (pick 0 true) bothWaiting)).map (fun h => (h.pend, h.high, h.sweep.state)) =
      some (⟨0, 1, 0⟩, [.tick], .stopped) ∧
    (hostOf (hostMove (pick 1 true) bothWaiting)).map (fun h => (h.pend, h.high, h.sweep.state)) =
      some (⟨1, 0, 0⟩, [], .singleSweep) := by decide

/-- P6 before row 13: a pre-empted button handler and a waiting Tick. -/
def preempted : State :=
  (fine 0 10 128 0 0 0).withHost { HostState.initial with pend := ⟨1, 0, 0⟩, low := [.encl, .ench] }

theorem test_tick_preempts_button_handler :
    (hostOf (hostMove (pick 0 true) preempted)).map (fun h => (h.high, h.low)) = some ([.tick], [.encl, .ench]) := by decide
theorem test_masked_event_kept_once :
    (arrive .buttonB preempted).host.pend = ⟨1, 0, 1⟩ ∧ (arrive .tick preempted).host.pend = ⟨1, 0, 0⟩ := by decide
/-- Up to `pendLimit` events are kept while masked (93 U11). -/
theorem test_masked_events_kept_to_the_limit :
    kept 3 true 1 = 2 ∧ kept 3 true 2 = 3 ∧ kept 3 true 3 = 3 ∧ kept 0 true 0 = 0 := by decide
theorem test_initialize_resets_the_block :
    registers (step { neverReset with host := { HostState.initial with up := false } }) = some (0, 0, 128, 0, 0, 0) := by decide

/-! ### Witnesses: for every statement with hypotheses, states and operands that meet them -/

theorem witness_wellFormed :
    (Instr.loadp (-128)).WellFormed ∧ (Instr.setpos 127).WellFormed ∧
    ∀ i ∈ [Instr.loadp 127, .rsvd15, .tick], i.WellFormed := by decide
theorem witness_argumentIgnored : opField 0x1A5 = opField 0x100 ∧ opField (0x1A5 : CmdWord) ≠ 0x2 ∧ opField (0x1A5 : CmdWord) ≠ 0x3 ∧
    Instr.rsvd15.opcode ≠ 0x2 ∧ Instr.rsvd15.opcode ≠ 0x3 := by decide

/-- The extreme parameter sets of V21 and V22. -/
def extremes : List Config :=
  [{ Config.profileF with center := 125 }, { Config.profileF with center := 898 },
   { Config.profileC with baseOffset := 31 }, { Config.profileC with baseOffset := 224 }]

theorem witness_config_extremes :
    ∀ c ∈ extremes, c.Valid ∧ c.InRange c.posLimit ∧ c.InRange (-c.posLimit) ∧ ¬ c.InRange (c.posLimit + 1) := by decide
theorem witness_highWidths :
    { Config.profileF with highWidth := 10, center := 2048 }.Valid ∧ { Config.profileF with highWidth := 6, center := 128 }.Valid ∧
    (1023 : Nat) ≤ 2 ^ Config.profileF.rawWidth - 1 ∧ (255 : Nat) < 2 ^ Config.profileF.highWidth := by decide
theorem witness_fieldSplit : Config.profileF.Valid ∧ Config.profileF.encMode = .fine ∧ Config.profileF.InRange 125 ∧
    fieldsOf (dutyNat Config.profileF 125) = fieldsOf (dutyNat Config.profileF 125) := by decide
theorem witness_adjacent :
    Config.profileF.InRange 124 ∧ Config.profileF.InRange (124 + 1) ∧ dutyNat Config.profileF 124 % 4 ≠ 3 ∧
    Config.profileF.InRange (-125) ∧ Config.profileF.InRange (-125 + 1) ∧ dutyNat Config.profileF (-125) % 4 = 3 := by decide
theorem witness_ready : Ready (fine 3 10 130 2 0 0) ∧ Ready (coarse 9 31 0 0) := by decide
theorem witness_reservedWord : 7 ≤ (opField 0x7FF).toNat ∧ 7 ≤ (opField 0xFFF).toNat ∧ opField (0x0FF : CmdWord) = 0x0 := by decide
theorem witness_tick :
    (Ready (fine 0 10 130 2 0 0) ∧ (fine 0 10 130 2 0 0).cfg.encMode = .fine) ∧
    (Ready (fine 9 (-125) 130 2 0 0) ∧ (fine 9 (-125) 130 2 0 0).block.slot = 9) ∧
    (Ready (coarse 0 (-31) 0 0) ∧ (coarse 0 (-31) 0 0).block.slot = 0 ∧
      (coarse 0 (-31) 0 0).cfg.InRange (coarse 0 (-31) 0 0).block.pos.toInt) := by decide
theorem witness_encoderCommands :
    (Ready (fine 4 125 0 0 0 0) ∧ (fine 4 125 0 0 0 0).cfg.encMode = .fine ∧ (fine 4 125 0 0 0 0).cfg.InRange 125 ∧
      (fine 4 125 0 0 0 0).cfg.InRange (-125) ∧ (fine 4 125 0 0 0 0).cfg.InRange (fine 4 125 0 0 0 0).block.pos.toInt) ∧
    (Ready (coarse 4 31 0 0) ∧ (coarse 4 31 0 0).cfg.encMode = .coarse ∧ (coarse 4 31 0 0).cfg.InRange 31 ∧
      (coarse 4 31 0 0).cfg.InRange (-31)) ∧ FitsArg 127 ∧ FitsArg (-128) := by decide
theorem witness_outOfRange :
    Ready (fine 4 126 0 0 0 0) ∧ ¬ (fine 4 126 0 0 0 0).cfg.InRange 126 ∧ ¬ (fine 4 126 0 0 0 0).cfg.InRange (-126) ∧
    ¬ (fine 4 126 0 0 0 0).cfg.InRange (fine 4 126 0 0 0 0).block.pos.toInt ∧ (fine 4 126 0 0 0 0).cfg.encMode = .fine ∧
    Ready (coarse 0 32 0 0) ∧ ¬ (coarse 0 32 0 0).cfg.InRange (coarse 0 32 0 0).block.pos.toInt ∧
    (coarse 0 32 0 0).cfg.encMode = .coarse ∧ (coarse 0 32 0 0).block.slot = 0 := by decide
theorem witness_neverReset :
    neverReset.cfg.Valid ∧ neverReset.block.live = false ∧ Instr.rsvd15 ≠ .init ∧
    (neverReset.withInputs [.port ⟨true, true, 0x20A⟩]).inputs = .port ⟨true, true, 0x20A⟩ :: [] := by decide
theorem witness_brokenParameters :
    ((State.resetWith { Config.profileC with baseOffset := 30 }).cfg.encMode = .coarse ∧ (30 : Nat) < 31) ∧
    ((State.resetWith { Config.profileC with baseOffset := 225 }).cfg.encMode = .coarse ∧ 255 < (225 : Nat) + 31) ∧
    ((State.resetWith { Config.profileF with center := 124 }).cfg.encMode = .fine ∧ (124 : Nat) < 125) ∧
    ((State.resetWith { Config.profileF with center := 899 }).cfg.encMode = .fine ∧ 2 ^ Config.profileF.rawWidth - 1 < (899 : Nat) + 125) ∧
    (State.resetWith { Config.profileF with posLimit := 32 }).cfg.posLimit ≠ 31 := by decide
theorem witness_execNext :
    (∃ t, exec .tick (fine 9 10 130 2 0 0) = .next t) ∧ (∃ t, exec .tick (coarse 0 31 0 0) = .next t) ∧
    (∃ t, exec (.loadp 125) (fine 9 10 130 2 0 0) = .next t) ∧ (∃ t, exec (.setpos (-31)) (coarse 0 31 0 0) = .next t) ∧
    (∃ t, exec .ench (fine 0 10 130 2 0 0) = .next t) ∧ (∃ t, exec .encl (fine 0 10 130 2 0 0) = .next t) ∧
    (∃ t, exec .init neverReset = .next t) ∧ (∃ t, exec .rsvd7 (fine 0 10 130 2 0 0) = .next t) :=
  ⟨⟨_, rfl⟩, ⟨_, rfl⟩, ⟨_, rfl⟩, ⟨_, rfl⟩, ⟨_, rfl⟩, ⟨_, rfl⟩, ⟨_, rfl⟩, ⟨_, rfl⟩⟩
theorem witness_readOnly :
    (fine 0 10 130 2 0 0).cfg = (fine 0 20 130 2 7 1).cfg ∧
    (∃ t t', exec .tick (fine 0 10 130 2 0 0) = .next t ∧ exec .tick (fine 0 20 130 2 7 1) = .next t') ∧
    (∃ t t', exec .tick (coarse 0 31 0 0) = .next t ∧ exec .tick (coarse 0 31 9 0) = .next t') ∧
    (∃ t t', exec .ench (fine 0 10 1 2 0 0) = .next t ∧ exec .ench (fine 5 10 130 1 7 1) = .next t') ∧
    (∃ t t', exec .encl (fine 0 10 1 2 0 0) = .next t ∧ exec .encl (fine 5 10 130 1 7 1) = .next t') ∧
    (∃ t t', exec (.loadp 125) (fine 0 10 1 2 0 0) = .next t ∧ exec (.loadp 125) (fine 5 20 130 1 7 1) = .next t') ∧
    (∃ t t', exec (.setpos 125) (fine 0 10 1 2 0 0) = .next t ∧ exec (.setpos 125) (fine 5 20 130 1 7 1) = .next t') ∧
    (∃ t t', exec .init (fine 0 10 1 2 0 0) = .next t ∧ exec .init (fine 5 20 130 1 7 1) = .next t') :=
  ⟨rfl, ⟨_, _, rfl, rfl⟩, ⟨_, _, rfl, rfl⟩, ⟨_, _, rfl, rfl⟩, ⟨_, _, rfl, rfl⟩, ⟨_, _, rfl, rfl⟩, ⟨_, _, rfl, rfl⟩,
    ⟨_, _, rfl, rfl⟩⟩
theorem witness_tickTwice :
    ∃ t u, exec .tick (fine 9 10 130 2 0 0) = .next t ∧ exec .tick t = .next u := ⟨_, _, rfl, rfl⟩
theorem witness_pulseInsideSplitLoad :
    Ready (fine 0 0 128 0 0 0) ∧ (fine 0 0 128 0 0 0).cfg.encMode = .fine ∧ (fine 0 0 128 0 0 0).block.slot = 0 ∧
    (fine 0 0 128 0 0 0).cfg.InRange (-125) ∧ ¬ torn (fine 0 0 128 0 0 0).cfg (fine 0 0 128 0 0 0).block := by decide
theorem witness_loadOutsidePulseSlot :
    (Ready (fine 2 0 128 0 0 0) ∧ (fine 2 0 128 0 0 0).block.slot ≠ 0 ∧ (fine 2 0 128 0 0 0).cfg.InRange 125) ∧
    (Ready (coarse 9 0 0 0) ∧ (coarse 9 0 0 0).block.slot ≠ 0 ∧ (coarse 9 0 0 0).cfg.InRange (-31)) := by decide
theorem witness_tenTicks :
    (∀ i ∈ Instr.loadp 10 :: List.replicate 10 Instr.tick, i ≠ .init) ∧
    tickCount (Instr.loadp 10 :: List.replicate 10 Instr.tick) = 10 ∧
    (registers (execs (Instr.loadp 10 :: List.replicate 10 Instr.tick) (fine 1 0 128 0 0 0))).isSome := by decide
theorem witness_ticksAndLoads : TicksAndLoads Config.profileF [.tick, .loadp 125, .loadp (-125)] := by
  intro i hi
  simp only [List.mem_cons, List.not_mem_nil, or_false] at hi
  rcases hi with rfl | rfl | rfl
  · exact .inl rfl
  · exact .inr ⟨125, rfl, by decide⟩
  · exact .inr ⟨-125, rfl, by decide⟩
theorem witness_portEdges :
    (fine 0 0 128 0 0 0).cfg.Valid ∧
    (∀ e ∈ [Edge.mk true true 0xFFF, ⟨false, true, 0x20A⟩, ⟨false, false, 0⟩],
      ((fine 0 0 128 0 0 0).withInputs [.port e]).inputs = .port e :: []) ∧
    decode 0x20A = .loadp 10 ∧ 4095 < 4096 := by decide
theorem witness_sweepButtons :
    ∀ st ∈ [SweepState.stopped, .singleSweep, .continuousSweep],
      (sweeping st 10 .up 0 (coarse 0 0 0 0)).cfg.hostVariant = .sweep ∧
      (sweeping st 10 .up 0 (coarse 0 0 0 0)).host.sweep.state = st := by decide
theorem witness_sweepTick :
    Config.profileC.hostVariant = .sweep ∧ Config.profileC.tickOrder = .controllerFirst ∧
    { Config.profileC with tickOrder := .sequencerFirst }.tickOrder = .sequencerFirst ∧
    (0 + 1 < 10 ∧ 10 ≤ 9 + 1) ∧
    31 < (coarse 0 31 0 0).block.pos.toInt + 1 ∧ (coarse 0 (-31) 0 0).block.pos.toInt + -1 < -31 ∧
    (-31 ≤ (coarse 0 30 0 0).block.pos.toInt + 1 ∧ (coarse 0 30 0 0).block.pos.toInt + 1 ≤ 31) ∧
    (-31 ≤ (coarse 0 (-30) 0 0).block.pos.toInt + -1 ∧ (coarse 0 (-30) 0 0).block.pos.toInt + -1 ≤ 31) := by decide
theorem witness_sweepRuns :
    ((⟨.stopped, 10, .down, 9⟩ : Sweep).state = .stopped ∧ (⟨.stopped, 10, .down, 9⟩ : Sweep).n ≤ 9 ∧ (-31 : Int) ≤ 30) ∧
    ((⟨.continuousSweep, 5, .down, 7⟩ : Sweep).state = .continuousSweep ∧ (-31 : Int) ≤ -31) ∧
    0 < 5 * (95 - (-31 : Int)).toNat ∧ 0 < 10 * (95 - (31 : Int)).toNat := by decide
theorem witness_directButtons :
    Config.profileF.hostVariant = .direct ∧ Config.profileF.loadStyle = .split ∧
    { Config.profileF with loadStyle := .atomic }.loadStyle = .atomic ∧ (pick 0 true).highFirst = true ∧
    (pick 0 false).highFirst = false := by decide
theorem witness_moves : (-125 : Int) ≤ 125 ∧ (125 : Int) ≤ 125 ∧ (-125 : Int) ≤ -125 := by decide
theorem witness_hostPriority :
    (∀ h ∈ [{ HostState.initial with high := [.tick] }, preempted.host, { HostState.initial with low := [.ench] },
        { HostState.initial with pend := ⟨0, 1, 1⟩ }, HostState.initial],
      ((fine 0 0 128 0 0 0).withHost h).cfg.Valid ∧ ((fine 0 0 128 0 0 0).withHost h).host.up = true ∧
      ((fine 0 0 128 0 0 0).withHost h).inputs = []) ∧
    (preempted.host.high = [] ∧ level preempted.cfg.hostVariant .tick = .high ∧ 0 < preempted.host.pend.count .tick) ∧
    level Config.profileF.hostVariant .buttonB = .low := by decide
theorem witness_eventArrival :
    (preempted.withInputs [.event .buttonB]).cfg.Valid ∧
    preempted.host.masked (level preempted.cfg.hostVariant .buttonB) = true ∧
    preempted.host.masked (level preempted.cfg.hostVariant .tick) = false ∧ preempted.cfg.pendLimit = 1 ∧
    preempted.host.pend.count .buttonB < preempted.cfg.pendLimit ∧ ¬ preempted.host.pend.count .tick < preempted.cfg.pendLimit ∧
    { preempted.cfg with pendLimit := 0 }.Valid ∧ { preempted.cfg with pendLimit := 3 }.Valid := by decide
theorem witness_initialize :
    ({ neverReset with host := { HostState.initial with up := false } } : State).cfg.Valid ∧
    ({ neverReset with host := { HostState.initial with up := false } } : State).host.up = false ∧
    ({ neverReset with host := { HostState.initial with up := false } } : State).inputs = [] := by decide

/-- The half-way state of P6 meets every invariant: a torn pair, old and old, inside a SPLIT load. -/
theorem witness_machineInv : MachineInv preempted where
  valid := by decide
  fits := ⟨by decide, by decide⟩
  block := fun _ =>
    { pos_inRange := by decide
      coarse_outLow := by decide
      coarse_outHigh := fun h => absurd h (by decide)
      fine_outHigh := fun _ => .inl rfl
      fine_outLow := fun _ => .inl rfl
      fine_storedHigh := fun _ => ⟨0, by decide, by decide⟩
      fine_storedLow := fun _ => ⟨0, by decide, by decide⟩ }

theorem witness_hostInv : HostInv preempted where
  high := by intro i hi; cases hi
  low := by
    intro i hi
    have hl : preempted.host.low = [.encl, .ench] := rfl
    rw [hl] at hi
    simp only [List.mem_cons, List.not_mem_nil, or_false] at hi
    rcases hi with rfl | rfl <;> trivial
  sweep := ⟨by decide, by decide, by decide⟩
  up_live := by decide
  down_idle := by decide

theorem witness_tornInv : TornInv preempted where
  low := fun _ _ => .inr (.inr (.inr (.inl (.inr rfl))))
  high := .inl rfl
  sweep_low := by decide
  up_live := by decide
  down_idle := by decide

theorem witness_hostDriven : HostDriven preempted ∧ Paired preempted.cfg ∧ preempted.host.up = true ∧ preempted.inputs = [] := by
  refine ⟨fun e rest h => ?_, by decide, by decide, by decide⟩
  cases h

theorem witness_hostStep : ∃ t, step preempted = .next t ∧ t.host.high = [.tick] ∧ t.host.low = [.encl, .ench] := ⟨_, rfl, rfl, rfl⟩

/-- The end of P6's handler: the last field command leaves a whole pair. -/
theorem witness_handlerEnds :
    ∃ t, step ((fine 1 10 128 2 128 2).withHost { HostState.initial with low := [.ench] }) = .next t ∧ t.host.low = [] ∧
      t.block.live = true ∧ t.cfg.encMode = .fine := ⟨_, rfl, rfl, rfl, rfl⟩

theorem witness_wholePair : MachineInv (fine 0 0 128 0 0 0) ∧ ¬ torn (fine 0 0 128 0 0 0).cfg (fine 0 0 128 0 0 0).block := by
  refine ⟨⟨by decide, ⟨by decide, by decide⟩, fun _ => ?_⟩, by decide⟩
  exact
    { pos_inRange := by decide
      coarse_outLow := by decide
      coarse_outHigh := fun h => absurd h (by decide)
      fine_outHigh := fun _ => .inl rfl
      fine_outLow := fun _ => .inl rfl
      fine_storedHigh := fun _ => ⟨0, by decide, by decide⟩
      fine_storedLow := fun _ => ⟨0, by decide, by decide⟩ }

/-- P6's run: the one torn pulse that the bound allows is emitted. -/
theorem witness_tornPulses :
    preempted.host.up = true ∧ (∀ e, Input.port e ∉ preempted.inputs) ∧ 4 ≤ 6 ∧
    (∀ k u, 4 ≤ k → k < 6 → Sys2Proof.core.run k preempted = .next u → u.host.low = []) ∧
    stepsWith ticks 4 preempted ≤ 10 ∧ stepsWith emitsTornPulse 6 preempted = 1 := by
  refine ⟨rfl, fun e h => (nomatch h), by decide, fun k u h1 h2 hr => ?_, by decide, by decide⟩
  obtain rfl | rfl : k = 4 ∨ k = 5 := by omega
  all_goals
    cases hr
    rfl

/-- A sweeping host with one tick waiting. -/
def tickWaiting : State :=
  (coarse 0 31 0 0).withHost { HostState.initial with sweep := ⟨.singleSweep, 10, .up, 9⟩, pend := ⟨1, 0, 0⟩ }

theorem witness_sweepTicksServed :
    MachineInv tickWaiting ∧ HostInv tickWaiting ∧ tickWaiting.cfg.hostVariant = .sweep ∧ tickWaiting.host.up = true ∧
    tickWaiting.inputs = [] ∧ tickWaiting.host.high = [] ∧ tickWaiting.host.low = [] ∧ tickWaiting.host.pend = ⟨0 + 1, 0, 0⟩ := by
  refine ⟨⟨by decide, ⟨by decide, by decide⟩, fun _ => ?_⟩, ⟨nofun, nofun, ⟨by decide, by decide, by decide⟩, by decide, by decide⟩,
    by decide⟩
  exact
    { pos_inRange := by decide
      coarse_outLow := by decide
      coarse_outHigh := fun _ => .inl rfl
      fine_outHigh := fun h => absurd h (by decide)
      fine_outLow := fun h => absurd h (by decide)
      fine_storedHigh := fun h => absurd h (by decide)
      fine_storedLow := fun h => absurd h (by decide) }

theorem witness_place : Ready (fine 4 0 128 0 0 0) ∧ (fine 4 0 128 0 0 0).cfg.InRange (-125) ∧
    ¬ (fine 4 0 128 0 0 0).cfg.InRange 126 ∧ ¬ (fine 4 0 128 0 0 0).cfg.InRange 130 := by decide

end Sys2Proof.Tests
end

