-- ==== Sys2Proof/Proofs/Scope.lean ====
section
/-! PROOFS. The parameters of a deployment (00_scope.md section 3): no command and no step changes them (R6), and a parameter set that
breaks a constraint has no step and no command (R7). -/

namespace Sys2Proof.Machine

/-! ### What a completed command or step leaves unchanged -/

/-- The frame of every command: at most the block's registers change. -/
theorem exec_next_withBlock {i : Instr} {s t : State} (h : exec i s = .next t) : ∃ b, t = s.withBlock b := by
  obtain ⟨-, ⟨-, rfl⟩ | ⟨-, ⟨rfl, -⟩ | ⟨-, -, -, -, rfl⟩ | ⟨-, -, -, rfl⟩ | ⟨-, -, rfl⟩ | ⟨p, -, -, -, rfl⟩ |
    ⟨p, -, -, -, rfl⟩ | ⟨p, -, -, rfl⟩ | ⟨-, -, -, rfl⟩ | ⟨-, -, -, rfl⟩⟩⟩ := exec_cases h
  case inr.inl => exact ⟨t.block, rfl⟩
  all_goals exact ⟨_, rfl⟩

theorem exec_next_cfg {i : Instr} {s t : State} (h : exec i s = .next t) : t.cfg = s.cfg := by
  obtain ⟨b, rfl⟩ := exec_next_withBlock h
  exact State.withBlock_cfg s b

/-- The frame of every clock edge: at most the block's registers change. -/
theorem onEdge_next_withBlock {e : Edge} {s t : State} (h : onEdge e s = .next t) : ∃ b, t = s.withBlock b := by
  unfold onEdge at h
  split at h
  · exact ⟨_, (resetTo_next_iff.1 h).2⟩
  · split at h
    · exact exec_next_withBlock h
    · cases h
      exact ⟨s.block, rfl⟩

theorem onEdge_next_cfg {e : Edge} {s t : State} (h : onEdge e s = .next t) : t.cfg = s.cfg := by
  obtain ⟨b, rfl⟩ := onEdge_next_withBlock h
  exact State.withBlock_cfg s b

theorem initializeAll_next_cfg {s t : State} (h : initializeAll s = .next t) : t.cfg = s.cfg :=
  (exec_next_cfg h).trans (State.withHost_cfg s _)

theorem hostMove_next_cfg {p : Pick} {s t : State} (h : hostMove p s = .next t) : t.cfg = s.cfg := by
  obtain ⟨-, hm⟩ | ⟨-, c, rest, -, hm⟩ | ⟨-, -, e, -, hm⟩ | ⟨-, -, -, c, rest, -, hm⟩ | ⟨-, -, -, -, e, -, hm⟩ |
    ⟨-, -, -, -, -, hm⟩ := hostMove_cases p s
  all_goals rw [hm] at h
  · exact initializeAll_next_cfg h
  · exact (exec_next_cfg h).trans (State.withHost_cfg s _)
  · cases h
    exact takeEvent_cfg p e s
  · exact (exec_next_cfg h).trans (State.withHost_cfg s _)
  · cases h
    exact takeEvent_cfg p e s
  · cases h
    rfl

theorem onInput_next_cfg {i : Input} {s t : State} (h : onInput i s = .next t) : t.cfg = s.cfg := by
  cases i with
  | port e => exact onEdge_next_cfg h
  | event e =>
    cases h
    exact arrive_cfg e s
  | quiet => exact hostMove_next_cfg h

theorem step_next_cfg {s t : State} (h : step s = .next t) : t.cfg = s.cfg := by
  obtain ⟨-, ⟨-, h⟩ | ⟨i, rest, -, h⟩⟩ := step_next_iff.1 h
  · exact hostMove_next_cfg h
  · exact (onInput_next_cfg h).trans (State.withInputs_cfg s rest)

/-! ### A parameter set that breaks a constraint -/

theorem configured_of_not_valid {s : State} {k : Result} (hv : ¬ s.cfg.Valid) :
    configured s k = .refused .notThisHardware := if_neg hv

theorem step_of_not_valid {s : State} (hv : ¬ s.cfg.Valid) : step s = .refused .notThisHardware :=
  configured_of_not_valid hv

/-- The meaning of every command begins with the check of the parameters. -/
theorem exec_eq_configured (i : Instr) (s : State) : ∃ k, exec i s = configured s k := by
  cases i <;> exact ⟨_, rfl⟩

theorem exec_of_not_valid {s : State} (hv : ¬ s.cfg.Valid) (i : Instr) : exec i s = .refused .notThisHardware := by
  obtain ⟨k, hk⟩ := exec_eq_configured i s
  rw [hk, configured_of_not_valid hv]

end Sys2Proof.Machine

namespace Sys2Proof.Config

/-- Outside R7 and R6's two values of POS_LIMIT: the range leaves no room, or POS_LIMIT is neither value. -/
theorem not_valid_of_broken {c : Config}
    (h : (c.encMode = .coarse ∧ (c.baseOffset < c.posLimit ∨ 255 < c.baseOffset + c.posLimit)) ∨
      (c.encMode = .fine ∧ (c.center < c.posLimit ∨ 2 ^ c.rawWidth - 1 < c.center + c.posLimit)) ∨
      (c.posLimit ≠ 31 ∧ c.posLimit ≠ 125)) : ¬ c.Valid := by
  rintro ⟨hlimit, hcoarse, hfine, -⟩
  obtain ⟨hm, hroom⟩ | ⟨hm, hroom⟩ | hneither := h
  · have := hcoarse hm
    omega
  · have := hfine hm
    omega
  · omega

end Sys2Proof.Config

namespace Sys2Proof.Proofs

open Sys2Proof.Machine

/-- Settles O53: a command or an edge changes the block alone, and what the host does besides is outside the parameters. -/
theorem stepKeepsParameters : Obligations.StepKeepsParameters := fun _ _ => step_next_cfg

/-- Settles O22: the step and every command check the parameters before anything else. -/
theorem brokenParametersRefused : Obligations.BrokenParametersRefused := by
  intro s h
  have hv := Config.not_valid_of_broken h
  exact ⟨step_of_not_valid hv, exec_of_not_valid hv⟩

end Sys2Proof.Proofs
end

section
/-! PROOFS. The block's state (10_state.md): what each command reads and writes (R18, R28), the values after reset and the never-reset
state (R29, R30), and the block's invariant (R27). -/

namespace Sys2Proof.Machine

/-! ### Completed commands, one by one -/

theorem exec_init_next_iff {s t : State} :
    exec .init s = .next t ↔ s.cfg.Valid ∧ t = s.withBlock (resetBlock s.cfg) := resetTo_next_iff

theorem exec_loadp_coarse_next_iff {s t : State} {p : Int} (hm : s.cfg.encMode = .coarse) :
    exec (.loadp p) s = .next t ↔ s.cfg.Valid ∧ s.block.live = true ∧ s.cfg.InRange p ∧
      t = s.withBlock (s.block.setPos (posOf p)) := by
  simp only [exec, execLoadp, inService_next_iff, encoded_next_iff, hm, Host.Outcome.next.injEq, eq_comm (b := t)]

theorem exec_loadp_fine_next_iff {s t : State} {p : Int} (hm : s.cfg.encMode = .fine) :
    exec (.loadp p) s = .next t ↔ s.cfg.Valid ∧ s.block.live = true ∧ s.cfg.InRange p ∧
      t = s.withBlock (((s.block.setPos (posOf p)).writeHigh (highOf (dutyNat s.cfg p))).writeLow
        (lowOf (dutyNat s.cfg p))) := by
  simp only [exec, execLoadp, inService_next_iff, encoded_next_iff, hm, Host.Outcome.next.injEq, eq_comm (b := t)]

theorem exec_setpos_next_iff {s t : State} {p : Int} :
    exec (.setpos p) s = .next t ↔ s.cfg.Valid ∧ s.block.live = true ∧ s.cfg.InRange p ∧
      t = s.withBlock (s.block.setPos (posOf p)) := by
  simp only [exec, execSetpos, inService_next_iff, encoded_next_iff, Host.Outcome.next.injEq, eq_comm (b := t)]

theorem exec_ench_fine_next_iff {s t : State} (hm : s.cfg.encMode = .fine) :
    exec .ench s = .next t ↔ s.cfg.Valid ∧ s.block.live = true ∧ s.cfg.InRange s.block.intPos ∧
      t = s.withBlock (s.block.writeHigh (highOf (dutyNat s.cfg s.block.intPos))) := by
  simp only [exec, execEnch, inService_next_iff, encoded_next_iff, hm, Host.Outcome.next.injEq, eq_comm (b := t)]

theorem exec_encl_fine_next_iff {s t : State} (hm : s.cfg.encMode = .fine) :
    exec .encl s = .next t ↔ s.cfg.Valid ∧ s.block.live = true ∧ s.cfg.InRange s.block.intPos ∧
      t = s.withBlock (s.block.writeLow (lowOf (dutyNat s.cfg s.block.intPos))) := by
  simp only [exec, execEncl, inService_next_iff, encoded_next_iff, hm, Host.Outcome.next.injEq, eq_comm (b := t)]

/-- What TICK puts on the outputs: at the pulse slot the encoding of the position (COARSE) or the stored pair (FINE), else zero (R61). -/
def Block.rendered (c : Config) (b : Block) : Nat × LowField :=
  if b.slot = 0 then
    match c.encMode with
    | .coarse => (dutyOf (dutyNat c b.intPos), 0)
    | .fine => (b.sh, b.sl)
  else (0, 0)

theorem exec_tick_next {s t : State} (h : exec .tick s = .next t) :
    t = s.withBlock (s.block.setOut (s.block.rendered s.cfg).1 (s.block.rendered s.cfg).2).advance := by
  obtain ⟨-, ⟨⟨⟩, -⟩ | ⟨-, ⟨-, hi, -⟩ | ⟨-, h0, hm, -, rfl⟩ | ⟨-, h0, hm, rfl⟩ | ⟨-, h0, rfl⟩ | ⟨_, ⟨⟩, -⟩ | ⟨_, ⟨⟩, -⟩ |
    ⟨_, ⟨⟩, -⟩ | ⟨⟨⟩, -⟩ | ⟨⟨⟩, -⟩⟩⟩ := exec_cases h
  · exact absurd rfl hi
  · simp [Block.rendered, h0, hm]
  · simp [Block.rendered, h0, hm]
  · simp [Block.rendered, h0]

/-- The registers TICK's outputs depend on (R28). -/
theorem Block.rendered_congr {c : Config} {b b' : Block} (hslot : b.slot = b'.slot)
    (hcoarse : c.encMode = .coarse → b.pos = b'.pos) (hfine : c.encMode = .fine → b.sh = b'.sh ∧ b.sl = b'.sl) :
    b.rendered c = b'.rendered c := by
  unfold Block.rendered
  rw [hslot]
  cases hm : c.encMode with
  | coarse => simp [Block.intPos, hcoarse hm]
  | fine => simp [hfine hm]

/-- The commands that move no register: NOP, the reserved ones, and in COARSE mode ENCH and ENCL (R60, R48, R75). -/
theorem exec_of_no_effect {i : Instr} {s : State} (hv : s.cfg.Valid) (hl : s.block.live = true) (htick : i ≠ .tick)
    (hinit : i ≠ .init) (hloadp : ∀ p, i ≠ .loadp p) (hsetpos : ∀ p, i ≠ .setpos p)
    (hfield : s.cfg.encMode = .fine → i ≠ .ench ∧ i ≠ .encl) : exec i s = .next s := by
  cases i
  case tick => exact absurd rfl htick
  case init => exact absurd rfl hinit
  case loadp p => exact absurd rfl (hloadp p)
  case setpos p => exact absurd rfl (hsetpos p)
  case ench =>
    cases hm : s.cfg.encMode with
    | coarse => simp only [exec, execEnch, inService_of_valid hv hl, hm]
    | fine => exact absurd rfl (hfield hm).1
  case encl =>
    cases hm : s.cfg.encMode with
    | coarse => simp only [exec, execEncl, inService_of_valid hv hl, hm]
    | fine => exact absurd rfl (hfield hm).2
  all_goals exact inService_of_valid hv hl

/-! ### CycleSlot -/

theorem nextSlot_eq (v : Slot) : nextSlot v = if v = 9 then 0 else v + 1 := by
  simp only [nextSlot, isLastSlot_eq_true_iff]

/-- TICK advances the slot, INIT zeroes it, every other command leaves it (R18). -/
theorem exec_next_slot {i : Instr} {s t : State} (h : exec i s = .next t) :
    t.block.slot = if i = .tick then nextSlot s.block.slot else if i = .init then 0 else s.block.slot := by
  obtain ⟨-, ⟨rfl, rfl⟩ | ⟨-, ⟨rfl, htick, hinit, -⟩ | ⟨rfl, -, -, -, rfl⟩ | ⟨rfl, -, -, rfl⟩ | ⟨rfl, -, rfl⟩ |
    ⟨p, rfl, -, -, rfl⟩ | ⟨p, rfl, -, -, rfl⟩ | ⟨p, rfl, -, rfl⟩ | ⟨rfl, -, -, rfl⟩ | ⟨rfl, -, -, rfl⟩⟩⟩ := exec_cases h
  case inr.inl => rw [if_neg htick, if_neg hinit]
  all_goals rfl

/-- A command other than TICK and INIT does the same whatever the slot (R18). -/
theorem exec_setSlot_of_next {i : Instr} {s t : State} (h : exec i s = .next t) (htick : i ≠ .tick) (hinit : i ≠ .init)
    (v : Slot) : exec i (s.withBlock (s.block.setSlot v)) = .next (t.withBlock (t.block.setSlot v)) := by
  obtain ⟨hv, ⟨rfl, -⟩ | ⟨hl, ⟨rfl, -, -, hloadp, hsetpos, hfield⟩ | ⟨rfl, -⟩ | ⟨rfl, -⟩ | ⟨rfl, -⟩ | ⟨p, rfl, hp, hm, rfl⟩ |
    ⟨p, rfl, hp, hm, rfl⟩ | ⟨p, rfl, hp, rfl⟩ | ⟨rfl, hm, hp, rfl⟩ | ⟨rfl, hm, hp, rfl⟩⟩⟩ := exec_cases h
  · exact absurd rfl hinit
  · exact exec_of_no_effect hv hl htick hinit hloadp hsetpos hfield
  · exact absurd rfl htick
  · exact absurd rfl htick
  · exact absurd rfl htick
  · exact (exec_loadp_coarse_next_iff (s := s.withBlock (s.block.setSlot v)) hm).2 ⟨hv, hl, hp, rfl⟩
  · exact (exec_loadp_fine_next_iff (s := s.withBlock (s.block.setSlot v)) hm).2 ⟨hv, hl, hp, rfl⟩
  · exact exec_setpos_next_iff.2 ⟨hv, hl, hp, rfl⟩
  · exact (exec_ench_fine_next_iff (s := s.withBlock (s.block.setSlot v)) hm).2 ⟨hv, hl, hp, rfl⟩
  · exact (exec_encl_fine_next_iff (s := s.withBlock (s.block.setSlot v)) hm).2 ⟨hv, hl, hp, rfl⟩

/-- The four lines of `slot_q` show the slot (R33). -/
theorem slotQ_toNat (s : State) : (slotQ s).toNat = s.block.slot.val := by
  have h := s.block.slot.isLt
  simp only [slotQ, BitVec.toNat_ofNat]
  omega

/-! ### Reset and the never-reset state -/

theorem inService_of_not_live {s : State} {k : Result} (hv : s.cfg.Valid) (hl : s.block.live = false) :
    inService s k = .refused .neverReset := by
  simp only [inService, configured_of_valid hv, hl, Bool.false_eq_true, if_false]

/-- The meaning of every command but INIT begins with the check that the block has been reset. -/
theorem exec_eq_inService {i : Instr} (hi : i ≠ .init) (s : State) : ∃ k, exec i s = inService s k := by
  cases i
  case init => exact absurd rfl hi
  all_goals exact ⟨_, rfl⟩

/-- An edge with `rst` high resets the block, whatever the other ports carry (R32, R133). -/
theorem step_of_rst {s : State} {b : Bool} {w : CmdWord} {rest : List Input} (hv : s.cfg.Valid)
    (h : s.inputs = .port ⟨true, b, w⟩ :: rest) :
    step s = .next ((s.withInputs rest).withBlock (Block.afterReset s.cfg)) := by
  rw [← resetBlock_eq]
  exact step_next_iff.2 ⟨hv, .inr ⟨_, rest, h, resetTo_next_iff.2 ⟨hv, rfl⟩⟩⟩

/-! ### Whole pairs -/

theorem not_torn_iff {c : Config} {b : Block} :
    ¬ torn c b ↔ b.sh = highOf (dutyNat c b.intPos) ∧ b.sl = lowOf (dutyNat c b.intPos) := by
  simp only [torn, fieldsOf, ne_eq, not_not, Prod.mk.injEq]

theorem intPos_setPos_posOf {c : Config} {b : Block} {p : Int} (hv : c.Valid) (hp : c.InRange p) :
    (b.setPos (posOf p)).intPos = p := posOf_toInt hv hp

theorem intPos_resetBlock (c : Config) : (resetBlock c).intPos = 0 := rfl

theorem resetBlock_not_torn {c : Config} (hm : c.encMode = .fine) : ¬ torn c (resetBlock c) := by
  rw [not_torn_iff, intPos_resetBlock]
  exact ⟨if_pos hm, if_pos hm⟩

theorem afterReset_not_torn {c : Config} (hm : c.encMode = .fine) : ¬ torn c (Block.afterReset c) :=
  resetBlock_eq c ▸ resetBlock_not_torn hm

/-! ### What a step does to the block -/

/-- From `s` to `t` the block is left alone, or one command is executed in a state with the block and the parameters of `s`. -/
def ByOneCommand (s t : State) : Prop :=
  t.block = s.block ∨ ∃ i u, u.cfg = s.cfg ∧ u.block = s.block ∧ exec i u = .next t

theorem ByOneCommand.of_exec {i : Instr} {s t u : State} (h : exec i u = .next t) (hc : u.cfg = s.cfg)
    (hb : u.block = s.block) : ByOneCommand s t := .inr ⟨i, u, hc, hb, h⟩

theorem onEdge_byOneCommand {e : Edge} {s t : State} (h : onEdge e s = .next t) : ByOneCommand s t := by
  unfold onEdge at h
  split at h
  · exact .of_exec (i := .init) h rfl rfl
  · split at h
    · exact .of_exec h rfl rfl
    · cases h
      exact .inl rfl

theorem hostMove_byOneCommand {p : Pick} {s t : State} (h : hostMove p s = .next t) : ByOneCommand s t := by
  obtain ⟨-, hm⟩ | ⟨-, c, rest, -, hm⟩ | ⟨-, -, e, -, hm⟩ | ⟨-, -, -, c, rest, -, hm⟩ | ⟨-, -, -, -, e, -, hm⟩ |
    ⟨-, -, -, -, -, hm⟩ := hostMove_cases p s
  all_goals rw [hm] at h
  · exact .of_exec (i := .init) (u := s.withHost _) h rfl rfl
  · exact .of_exec h rfl rfl
  · cases h
    exact .inl (takeEvent_block p e s)
  · exact .of_exec h rfl rfl
  · cases h
    exact .inl (takeEvent_block p e s)
  · cases h
    exact .inl rfl

theorem onInput_byOneCommand {i : Input} {s t : State} (h : onInput i s = .next t) : ByOneCommand s t := by
  cases i with
  | port e => exact onEdge_byOneCommand h
  | event e =>
    cases h
    exact .inl (arrive_block e s)
  | quiet => exact hostMove_byOneCommand h

theorem step_byOneCommand {s t : State} (h : step s = .next t) : ByOneCommand s t := by
  obtain ⟨-, ⟨-, h⟩ | ⟨i, rest, -, h⟩⟩ := step_next_iff.1 h
  · exact hostMove_byOneCommand h
  · exact onInput_byOneCommand (s := s.withInputs rest) h

end Sys2Proof.Machine

namespace Sys2Proof.Safety

open Sys2Proof.Machine

/-! ### The block's invariant, register by register -/

section
variable {c : Config} {b : Block}

theorem BlockInv.setPos (hb : BlockInv c b) (hv : c.Valid) {p : Int} (hp : c.InRange p) : BlockInv c (b.setPos (posOf p)) :=
  { hb with pos_inRange := by rwa [intPos_setPos_posOf hv hp] }

theorem BlockInv.writeHigh (hb : BlockInv c b) (hm : c.encMode = .fine) {p : Int} (hp : c.InRange p) :
    BlockInv c (b.writeHigh (highOf (dutyNat c p))) :=
  { hb with
    coarse_outHigh := fun h => by simp [hm] at h
    fine_outHigh := fun _ => .inr ⟨p, hp, rfl⟩
    fine_storedHigh := fun _ => ⟨p, hp, rfl⟩ }

theorem BlockInv.writeLow (hb : BlockInv c b) (hm : c.encMode = .fine) {p : Int} (hp : c.InRange p) :
    BlockInv c (b.writeLow (lowOf (dutyNat c p))) :=
  { hb with
    coarse_outLow := fun h => by simp [hm] at h
    fine_outLow := fun _ => .inr ⟨p, hp, rfl⟩
    fine_storedLow := fun _ => ⟨p, hp, rfl⟩ }

theorem BlockInv.advance (hb : BlockInv c b) : BlockInv c b.advance := { hb with }

theorem BlockInv.clearOut (hb : BlockInv c b) : BlockInv c (b.setOut 0 0) :=
  { hb with
    coarse_outLow := fun _ => rfl
    coarse_outHigh := fun _ => .inl rfl
    fine_outHigh := fun _ => .inl rfl
    fine_outLow := fun _ => .inl rfl }

theorem BlockInv.setOut_duty (hb : BlockInv c b) (hm : c.encMode = .coarse) {p : Int} (hp : c.InRange p) :
    BlockInv c (b.setOut (dutyOf (dutyNat c p)) 0) :=
  { hb with
    coarse_outLow := fun _ => rfl
    coarse_outHigh := fun _ => .inr ⟨p, hp, rfl⟩
    fine_outHigh := fun h => by simp [hm] at h
    fine_outLow := fun _ => .inl rfl }

theorem BlockInv.setOut_stored (hb : BlockInv c b) (hm : c.encMode = .fine) : BlockInv c (b.setOut b.sh b.sl) :=
  { hb with
    coarse_outLow := fun h => by simp [hm] at h
    coarse_outHigh := fun h => by simp [hm] at h
    fine_outHigh := fun h => .inr (hb.fine_storedHigh h)
    fine_outLow := fun h => .inr (hb.fine_storedLow h) }

theorem inRange_zero (c : Config) : c.InRange 0 := ⟨by omega, by omega⟩

theorem BlockInv.resetBlock (c : Config) : BlockInv c (resetBlock c) where
  pos_inRange := by rw [intPos_resetBlock]; exact inRange_zero c
  coarse_outLow _ := rfl
  coarse_outHigh _ := .inl rfl
  fine_outHigh _ := .inl rfl
  fine_outLow _ := .inl rfl
  fine_storedHigh hm := ⟨0, inRange_zero c, if_pos hm⟩
  fine_storedLow hm := ⟨0, inRange_zero c, if_pos hm⟩

theorem highOf_dutyNat_lt (hv : c.Valid) (hm : c.encMode = .fine) {p : Int} (hp : c.InRange p) :
    highOf (dutyNat c p) < 2 ^ c.highWidth := highOf_lt (dutyNat_fine hv hm hp).2

/-- The invariant keeps the high registers within their widths, but for the place of `sh` in COARSE mode (log 3). -/
theorem BlockInv.fits (hb : BlockInv c b) (hv : c.Valid) (hsh : c.encMode = .coarse → b.sh < 2 ^ c.highWidth) :
    BlockFits c b := by
  cases hm : c.encMode with
  | coarse =>
    refine ⟨hsh hm, ?_⟩
    rw [outWidth_coarse hm]
    obtain h0 | ⟨p, -, hp⟩ := hb.coarse_outHigh hm
    · simp [h0]
    · rw [hp]
      exact Nat.mod_lt _ (by decide)
  | fine =>
    refine ⟨?_, ?_⟩
    · obtain ⟨p, hp, h⟩ := hb.fine_storedHigh hm
      exact h ▸ highOf_dutyNat_lt hv hm hp
    · rw [outWidth_fine hm]
      obtain h0 | ⟨p, hp, h⟩ := hb.fine_outHigh hm
      · simp [h0]
      · exact h ▸ highOf_dutyNat_lt hv hm hp

end

/-! ### The machine's invariant -/

theorem MachineInv.withBlock {s : State} {b : Block} (hs : MachineInv s) (hb : BlockInv s.cfg b)
    (hsh : s.cfg.encMode = .coarse → b.sh = s.block.sh) : MachineInv (s.withBlock b) where
  valid := hs.valid
  fits := hb.fits hs.valid fun hm => hsh hm ▸ hs.fits.storedHigh
  block _ := hb

theorem MachineInv.withResetBlock {s : State} (hv : s.cfg.Valid) : MachineInv (s.withBlock (resetBlock s.cfg)) where
  valid := hv
  fits := (BlockInv.resetBlock s.cfg).fits hv fun hm => by simp [Machine.resetBlock, hm]
  block _ := BlockInv.resetBlock s.cfg

/-- The invariant speaks of the parameters and the block alone. -/
theorem MachineInv.congr {s t : State} (hs : MachineInv s) (hc : t.cfg = s.cfg) (hb : t.block = s.block) : MachineInv t := by
  obtain ⟨hv, hf, hi⟩ := hs
  exact ⟨hc ▸ hv, hc ▸ hb ▸ hf, hc ▸ hb ▸ hi⟩

theorem exec_keeps_machineInv {i : Instr} {s t : State} (hs : MachineInv s) (h : exec i s = .next t) : MachineInv t := by
  obtain ⟨hv, ⟨-, rfl⟩ | ⟨hl, hcases⟩⟩ := exec_cases h
  · exact .withResetBlock hv
  have hb := hs.block hl
  obtain ⟨rfl, -⟩ | ⟨-, -, hm, hp, rfl⟩ | ⟨-, -, hm, rfl⟩ | ⟨-, -, rfl⟩ | ⟨p, -, hp, -, rfl⟩ | ⟨p, -, hp, hm, rfl⟩ |
    ⟨p, -, hp, rfl⟩ | ⟨-, hm, hp, rfl⟩ | ⟨-, hm, hp, rfl⟩ := hcases
  · exact hs
  · exact hs.withBlock (hb.setOut_duty hm hp).advance fun _ => rfl
  · exact hs.withBlock (hb.setOut_stored hm).advance fun _ => rfl
  · exact hs.withBlock hb.clearOut.advance fun _ => rfl
  · exact hs.withBlock (hb.setPos hv hp) fun _ => rfl
  · exact hs.withBlock (((hb.setPos hv hp).writeHigh hm hp).writeLow hm hp) fun h => by simp [hm] at h
  · exact hs.withBlock (hb.setPos hv hp) fun _ => rfl
  · exact hs.withBlock (hb.writeHigh hm hp) fun h => by simp [hm] at h
  · exact hs.withBlock (hb.writeLow hm hp) fun _ => rfl

theorem step_keeps_machineInv {s t : State} (hs : MachineInv s) (h : step s = .next t) : MachineInv t := by
  obtain hb | ⟨i, u, hc, hb, hu⟩ := step_byOneCommand h
  · exact hs.congr (step_next_cfg h) hb
  · exact exec_keeps_machineInv (hs.congr hc hb) hu

/-! ### The invariants at reset and at power-on -/

theorem machineInv_resetWith {c : Config} (hv : c.Valid) : MachineInv (State.resetWith c) :=
  (MachineInv.withResetBlock (s := State.resetWith c) hv).congr rfl (resetBlock_eq c).symm

/-- The registers at power-on hold any values of their widths (R30). -/
theorem machineInv_powerOn {c : Config} (hv : c.Valid) : MachineInv (State.powerOn c) where
  valid := hv
  fits := ⟨Nat.mod_lt _ (Nat.two_pow_pos _), Nat.mod_lt _ (Nat.two_pow_pos _)⟩
  block hl := nomatch hl

theorem sweepInv_initial : SweepInv Sweep.initial := ⟨.inl rfl, by decide, fun _ => rfl⟩

theorem hostInv_resetWith (c : Config) : HostInv (State.resetWith c) where
  high := nofun
  low := nofun
  sweep := sweepInv_initial
  up_live _ := rfl
  down_idle := nofun

theorem hostInv_powerOn (c : Config) : HostInv (State.powerOn c) where
  high := nofun
  low := nofun
  sweep := sweepInv_initial
  up_live := nofun
  down_idle _ := ⟨rfl, rfl⟩

theorem highPhase_nil (v : HostVariant) : HighPhase v [] := by
  cases v <;> exact .inl rfl

theorem tornInv_resetWith (c : Config) : TornInv (State.resetWith c) where
  low _ hm := .inl ⟨rfl, afterReset_not_torn hm⟩
  high := highPhase_nil _
  sweep_low _ := rfl
  up_live _ := rfl
  down_idle := nofun

theorem tornInv_powerOn (c : Config) : TornInv (State.powerOn c) where
  low := nofun
  high := highPhase_nil _
  sweep_low _ := rfl
  up_live := nofun
  down_idle _ := ⟨rfl, rfl⟩

end Sys2Proof.Safety

namespace Sys2Proof.Proofs

open Sys2Proof.Machine Sys2Proof.Safety

/-- Settles O54: a step leaves the block alone or executes one command, and every command writes zero or encodings of in-range
positions. -/
theorem stepKeepsBlockInvariant : Obligations.StepKeepsBlockInvariant := fun _ _ => step_keeps_machineInv

/-- Settles O23, along the cases of what a command can do; where the case is one of FINE mode, `hm` rules out the clauses for COARSE
mode. -/
theorem commandsWriteOnlyTheirRegisters : Obligations.CommandsWriteOnlyTheirRegisters := by
  intro i s t h
  obtain ⟨-, ⟨rfl, rfl⟩ | ⟨-, ⟨rfl, -⟩ | ⟨rfl, -, -, -, rfl⟩ | ⟨rfl, -, hm, rfl⟩ | ⟨rfl, -, rfl⟩ |
    ⟨p, rfl, -, -, rfl⟩ | ⟨p, rfl, -, hm, rfl⟩ | ⟨p, rfl, -, rfl⟩ | ⟨rfl, hm, -, rfl⟩ | ⟨rfl, hm, -, rfl⟩⟩⟩ := exec_cases h
  · simp
  · simp
  · simp
  · simp
  · simp
  · simp
  · simp [hm]
  · simp
  · simp [hm]
  · simp [hm]

/-- Settles O24: each completed command's registers are written out, and what stands there is what the two states share. -/
theorem commandsReadOnlyTheirRegisters : Obligations.CommandsReadOnlyTheirRegisters := by
  intro s s' t t' hcfg
  refine ⟨fun h h' hslot hcoarse hfine => ?tick, fun p h h' => ?loadp, fun p h h' => ?setpos, fun h h' hm hpos => ?ench,
    fun h h' hm hpos => ?encl, fun h h' => ?init⟩
  case tick =>
    rw [exec_tick_next h, exec_tick_next h', ← hcfg]
    simp [hslot, Block.rendered_congr hslot hcoarse hfine]
  case loadp =>
    cases hm : s.cfg.encMode with
    | coarse =>
      obtain ⟨-, -, -, rfl⟩ := (exec_loadp_coarse_next_iff hm).1 h
      obtain ⟨-, -, -, rfl⟩ := (exec_loadp_coarse_next_iff (hcfg ▸ hm)).1 h'
      simp
    | fine =>
      obtain ⟨-, -, -, rfl⟩ := (exec_loadp_fine_next_iff hm).1 h
      obtain ⟨-, -, -, rfl⟩ := (exec_loadp_fine_next_iff (hcfg ▸ hm)).1 h'
      simp [hcfg]
  case setpos =>
    obtain ⟨-, -, -, rfl⟩ := exec_setpos_next_iff.1 h
    obtain ⟨-, -, -, rfl⟩ := exec_setpos_next_iff.1 h'
    simp
  case ench =>
    obtain ⟨-, -, -, rfl⟩ := (exec_ench_fine_next_iff hm).1 h
    obtain ⟨-, -, -, rfl⟩ := (exec_ench_fine_next_iff (hcfg ▸ hm)).1 h'
    simp [hcfg, Block.intPos, hpos]
  case encl =>
    obtain ⟨-, -, -, rfl⟩ := (exec_encl_fine_next_iff hm).1 h
    obtain ⟨-, -, -, rfl⟩ := (exec_encl_fine_next_iff (hcfg ▸ hm)).1 h'
    simp [hcfg, Block.intPos, hpos]
  case init =>
    obtain ⟨-, rfl⟩ := exec_init_next_iff.1 h
    obtain ⟨-, rfl⟩ := exec_init_next_iff.1 h'
    simp [hcfg]

/-- Settles O25: how the slot moves is read off `exec_next_slot`, and a command that does not read it can be executed over any slot. -/
theorem slotMovesOnlyByTickAndInit : Obligations.SlotMovesOnlyByTickAndInit := by
  intro i s t h
  have hslot := exec_next_slot h
  refine ⟨?_, ?_, fun htick hinit => ?_, fun v htick hinit => exec_setSlot_of_next h htick hinit v, ?_, slotQ_toNat t⟩
  · rintro rfl
    rw [hslot, if_pos rfl, nextSlot_eq]
  · rintro rfl
    exact hslot
  · rw [hslot, if_neg htick, if_neg hinit]
  · rintro v rfl
    exact exec_init_next_iff.2 (exec_init_next_iff.1 h)

/-- Settles O31: TICK moves neither the position nor the stored pair, and LOADP and INIT write both from one position. -/
theorem wholePairStaysWhole : Obligations.WholePairStaysWhole := by
  intro i s t _ hm h hwhole hsetpos hench hencl
  obtain ⟨hv, ⟨-, rfl⟩ | ⟨-, ⟨rfl, -⟩ | ⟨-, -, -, -, rfl⟩ | ⟨-, -, -, rfl⟩ | ⟨-, -, rfl⟩ | ⟨p, -, -, hc, -⟩ |
    ⟨p, -, hp, -, rfl⟩ | ⟨p, rfl, -⟩ | ⟨rfl, -⟩ | ⟨rfl, -⟩⟩⟩ := exec_cases h
  · exact resetBlock_not_torn hm
  · exact hwhole
  · exact hwhole
  · exact hwhole
  · exact hwhole
  · simp [hm] at hc
  · have hpos : (s.block.setPos (posOf p)).intPos = p := intPos_setPos_posOf hv hp
    exact not_torn_iff.2 ⟨congrArg (fun q => highOf (dutyNat s.cfg q)) hpos.symm,
      congrArg (fun q => lowOf (dutyNat s.cfg q)) hpos.symm⟩
  · exact absurd rfl (hsetpos p)
  · exact absurd rfl hench
  · exact absurd rfl hencl

/-- Settles O21: every meaning but INIT's begins with the check of `live`, and INIT and `rst` set it. -/
theorem neverResetAcceptsInitOnly : Obligations.NeverResetAcceptsInitOnly := by
  refine ⟨fun s i hv hl hi => ?_, fun s hv => ⟨_, exec_init_next_iff.2 ⟨hv, rfl⟩, rfl⟩,
    fun s b w rest hv h => ⟨_, step_of_rst hv h, rfl⟩, fun c => rfl⟩
  obtain ⟨k, hk⟩ := exec_eq_inService hi s
  rw [hk, inService_of_not_live hv hl]

/-- Settles O37: INIT's assignments, the edge's and the reset state's are the same block. -/
theorem resetValues : Obligations.ResetValues := by
  refine ⟨fun c => ⟨rfl, rfl, rfl, rfl, fun hm => ⟨if_pos hm, if_pos hm, ?_⟩⟩, State.resetWith_block, rfl, fun s hv => ?_,
    fun s b w rest hv h => ⟨_, step_of_rst hv h, rfl⟩⟩
  · exact not_not.1 (afterReset_not_torn hm)
  · exact exec_init_next_iff.2 ⟨hv, by rw [resetBlock_eq]⟩

/-- Settles O59: at reset the block is INIT's and no handler runs; at power-on the block is not live and the host is down. -/
theorem invariantsHoldAtReset : Obligations.InvariantsHoldAtReset := fun c hv =>
  ⟨machineInv_resetWith hv, hostInv_resetWith c, tornInv_resetWith c, machineInv_powerOn hv, hostInv_powerOn c, tornInv_powerOn c,
    rfl, by decide⟩

end Sys2Proof.Proofs
end

section
/-! PROOFS. The command port (20_memory.md): what one clock edge does (R32), that a step is the decoded command (R42), and which commands
are idempotent (R37). -/

namespace Sys2Proof.Machine

/-! ### A step that takes a clock edge -/

theorem step_of_port {s : State} {e : Edge} {rest : List Input} (h : s.inputs = .port e :: rest) :
    step s = configured s (onEdge e (s.withInputs rest)) := by
  rw [step, h]
  rfl

/-- A valid word is executed, and the step's own check of the parameters adds nothing to the command's. -/
theorem step_of_command {s : State} {w : CmdWord} {rest : List Input} (h : s.inputs = .port ⟨false, true, w⟩ :: rest) :
    step s = exec (decode w) (s.withInputs rest) := by
  by_cases hv : s.cfg.Valid
  · rw [step_of_port h, configured_of_valid hv]
    rfl
  · rw [step_of_not_valid hv]
    exact (exec_of_not_valid (s := s.withInputs rest) hv _).symm

/-- With `cmd_valid` and `rst` low the edge is used up and nothing else happens. -/
theorem step_of_idle_edge {s : State} {w : CmdWord} {rest : List Input} (hv : s.cfg.Valid)
    (h : s.inputs = .port ⟨false, false, w⟩ :: rest) : step s = .next (s.withInputs rest) := by
  rw [step_of_port h, configured_of_valid hv]
  rfl

theorem State.withFetchWord_withInputs (s : State) (nbits w : Nat) : (s.withFetchWord nbits w).withInputs s.inputs = s := rfl

/-- The word placed by `withFetchWord` is cut to its `nbits` bits and executed in the state it was placed in (log 9). -/
theorem step_withFetchWord (s : State) (nbits w : Nat) :
    step (s.withFetchWord nbits w) = exec (decode (BitVec.ofNat 12 (w % 2 ^ nbits))) s := by
  rw [step_of_command (s.withFetchWord_inputs nbits w), State.withFetchWord_withInputs]

/-! ### A command done twice -/

theorem nextSlot_ne (v : Slot) : nextSlot v ≠ v := by
  revert v; decide

/-- TICK advances the slot every time, so no state is left as it was. -/
theorem exec_tick_next_ne {s t : State} (h : exec .tick s = .next t) : t ≠ s := by
  rintro rfl
  exact nextSlot_ne t.block.slot (exec_next_slot h).symm

/-- A command other than TICK reads no register that it writes, so that the second time it writes the same values. -/
theorem exec_again_of_next {i : Instr} {s t : State} (h : exec i s = .next t) (htick : i ≠ .tick) : exec i t = .next t := by
  obtain ⟨hv, ⟨rfl, rfl⟩ | ⟨hl, ⟨rfl, -⟩ | ⟨rfl, -⟩ | ⟨rfl, -⟩ | ⟨rfl, -⟩ | ⟨p, rfl, hp, hm, rfl⟩ | ⟨p, rfl, hp, hm, rfl⟩ |
    ⟨p, rfl, hp, rfl⟩ | ⟨rfl, hm, hp, rfl⟩ | ⟨rfl, hm, hp, rfl⟩⟩⟩ := exec_cases h
  · exact exec_init_next_iff.2 ⟨hv, rfl⟩
  · exact h
  · exact absurd rfl htick
  · exact absurd rfl htick
  · exact absurd rfl htick
  · exact (exec_loadp_coarse_next_iff (s := s.withBlock (s.block.setPos _)) hm).2 ⟨hv, hl, hp, rfl⟩
  · exact (exec_loadp_fine_next_iff (s := s.withBlock (((s.block.setPos _).writeHigh _).writeLow _)) hm).2 ⟨hv, hl, hp, rfl⟩
  · exact exec_setpos_next_iff.2 ⟨hv, hl, hp, rfl⟩
  · exact (exec_ench_fine_next_iff (s := s.withBlock (s.block.writeHigh _)) hm).2 ⟨hv, hl, hp, rfl⟩
  · exact (exec_encl_fine_next_iff (s := s.withBlock (s.block.writeLow _)) hm).2 ⟨hv, hl, hp, rfl⟩

end Sys2Proof.Machine

namespace Sys2Proof.Proofs

open Sys2Proof.Machine

/-- Settles O26: a command other than TICK writes the same values again, and a second TICK moves the slot again. -/
theorem onlyTickIsNotIdempotent : Obligations.OnlyTickIsNotIdempotent := by
  refine fun i s t h => ⟨exec_again_of_next h, ?_⟩
  rintro rfl u
  exact exec_tick_next_ne

/-- Settles O34: one lemma for each of the three edges. -/
theorem portEdgeExecutesOneCommand : Obligations.PortEdgeExecutesOneCommand := fun _ _ _ hv =>
  ⟨fun _ h => ⟨_, step_of_rst hv h, rfl, rfl, rfl, rfl, rfl⟩, step_of_command, step_of_idle_edge hv⟩

/-- Settles O35: the edge that carries the word is a step of its command, and a word of 12 bits is not cut at 16. -/
theorem stepRunsTheDecodedCommand : Obligations.StepRunsTheDecodedCommand := by
  refine ⟨fun s i w rest h hi => hi ▸ step_of_command h, fun s w hw => ?_⟩
  have hcut : w % 2 ^ 16 = w := Nat.mod_eq_of_lt (by omega)
  rw [step_withFetchWord, hcut]

end Sys2Proof.Proofs
end

section
/-! PROOFS. Command words and the assembler's text (30_encoding.md): the decoder as the opcode and the operand of a word (R44 to R48,
R55), the canonical word (R53), and the lines that spell commands (R53). -/

namespace Sys2Proof

/-! ### The decoder, said by the word's two fields -/

/-- The operand of the command, where it has one, is the one the word's argument byte stands for (R46). -/
def Instr.TakesOperandOf (w : CmdWord) : Instr → Prop
  | .loadp p => p = operandOf w
  | .setpos p => p = operandOf w
  | _ => True

theorem opcode_decode (w : CmdWord) : (decode w).opcode = opField w := by
  have hlt := (opField w).isLt
  apply BitVec.eq_of_toNat_eq
  unfold decode
  split
  case h_16 =>
    show 15 = (opField w).toNat
    simp only [imp_false] at *
    omega
  all_goals exact Eq.symm ‹_›

theorem decode_takesOperandOf (w : CmdWord) : (decode w).TakesOperandOf w := by
  unfold decode
  split
  case h_3 => rfl
  case h_4 => rfl
  all_goals trivial

/-- R45 and R47 in one: the opcode field and, for LOADP and SETPOS, the operand decide which command a word is. -/
theorem decode_eq_iff {w : CmdWord} {i : Instr} : decode w = i ↔ opField w = i.opcode ∧ i.TakesOperandOf w := by
  constructor
  · rintro rfl
    exact ⟨(opcode_decode w).symm, decode_takesOperandOf w⟩
  · rintro ⟨hop, harg⟩
    unfold decode
    rw [hop]
    cases i
    case loadp p => exact congrArg Instr.loadp harg.symm
    case setpos p => exact congrArg Instr.setpos harg.symm
    all_goals rfl

/-- The other fourteen commands have no operand (R47). -/
theorem Instr.takesOperandOf_of_opcode_ne {i : Instr} (h2 : i.opcode ≠ 0x2) (h3 : i.opcode ≠ 0x3) (w : CmdWord) :
    i.TakesOperandOf w := by
  cases i
  case loadp p => exact absurd rfl h2
  case setpos p => exact absurd rfl h3
  all_goals trivial

theorem Instr.argByte_of_opcode_ne {i : Instr} (h2 : i.opcode ≠ 0x2) (h3 : i.opcode ≠ 0x3) : i.argByte = 0 := by
  cases i
  case loadp p => exact absurd rfl h2
  case setpos p => exact absurd rfl h3
  all_goals rfl

theorem decode_mem_reserved {w : CmdWord} (h : 7 ≤ (opField w).toNat) :
    decode w ∈ [Instr.rsvd7, .rsvd8, .rsvd9, .rsvd10, .rsvd11, .rsvd12, .rsvd13, .rsvd14, .rsvd15] := by
  rw [← opcode_decode] at h
  revert h
  cases decode w <;> simp [Instr.opcode]

/-! ### The canonical word -/

theorem opField_append (op : BitVec 4) (arg : BitVec 8) : opField (op ++ arg) = op :=
  (Laws.CanonicalWord.fields_of_append op arg).1

theorem argField_append (op : BitVec 4) (arg : BitVec 8) : argField (op ++ arg) = arg :=
  (Laws.CanonicalWord.fields_of_append op arg).2

theorem operandOf_append (op : BitVec 4) (arg : BitVec 8) : operandOf (op ++ arg) = arg.toInt :=
  congrArg BitVec.toInt (argField_append op arg)

theorem append_fields (w : CmdWord) : opField w ++ argField w = w :=
  BitVec.extractLsb'_append_extractLsb'

/-- An operand that fits the argument byte survives it (R46). -/
theorem toInt_ofInt_of_fitsArg {p : Int} (h : FitsArg p) : (BitVec.ofInt 8 p).toInt = p := by
  rw [BitVec.toInt_ofInt]
  apply Int.bmod_eq_of_le <;> omega

theorem Instr.takesOperandOf_encode {i : Instr} (hi : i.WellFormed) : i.TakesOperandOf (encode i) := by
  cases i
  case loadp p => exact ((operandOf_append _ _).trans (toInt_ofInt_of_fitsArg (of_decide_eq_true hi))).symm
  case setpos p => exact ((operandOf_append _ _).trans (toInt_ofInt_of_fitsArg (of_decide_eq_true hi))).symm
  all_goals trivial

/-- The operand by cases of the top bit (R46). -/
theorem toInt_eq_ite (arg : BitVec 8) :
    arg.toInt = if arg.toNat < 128 then (arg.toNat : Int) else (arg.toNat : Int) - 256 := by
  rw [BitVec.toInt_eq_toNat_cond]
  split <;> split <;> omega

/-! ### The rows of the opcode table -/

/-- The mask of every row selects the opcode field, and the match is the opcode with an argument of zeros (R45). -/
theorem and_mask_eq_iff {w : CmdWord} {op : BitVec 4} : w &&& 0xF00 = op ++ (0 : BitVec 8) ↔ opField w = op := by
  have hand : w &&& 0xF00 = opField w ++ (0 : BitVec 8) := by
    calc w &&& 0xF00 = (opField w ++ argField w) &&& ((0xF : BitVec 4) ++ (0 : BitVec 8)) := by rw [append_fields]; rfl
      _ = (opField w &&& BitVec.allOnes 4) ++ (argField w &&& 0) := BitVec.and_append
      _ = opField w ++ (0 : BitVec 8) := by rw [BitVec.and_allOnes]; exact congrArg _ BitVec.and_zero
  rw [hand]
  constructor
  · intro h
    simpa only [opField_append] using congrArg opField h
  · rintro rfl
    rfl

/-- A word is of a row when the row's match has the command's opcode and an argument of zeros (R45). -/
theorem decode_eq_iff_mask {w m : CmdWord} {i : Instr} (hop : opField m = i.opcode) (hm : argField m = 0)
    (harg : i.TakesOperandOf w) : decode w = i ↔ w &&& 0xF00 = m := by
  rw [decode_eq_iff, and_iff_left harg, ← and_mask_eq_iff, ← hop, ← hm, append_fields]

/-- The table's row for an opcode. -/
def rowOf (op : BitVec 4) : OpcodeRow := ⟨op, op ++ (0 : BitVec 8), 0xF00⟩

theorem rowOf_covers {op : BitVec 4} {w : CmdWord} : (rowOf op).covers w = true ↔ opField w = op :=
  beq_iff_eq.trans and_mask_eq_iff

theorem mem_opcodeTable_iff {r : OpcodeRow} : r ∈ opcodeTable ↔ ∃ op, r = rowOf op := by
  constructor
  · have h : ∀ r ∈ opcodeTable, r = rowOf r.opcode := by decide
    exact fun hr => ⟨r.opcode, h r hr⟩
  · rintro ⟨op, rfl⟩
    revert op; decide

end Sys2Proof

namespace Sys2Proof.Machine

/-! ### Lines of commands -/

/-- A comment is not read. -/
theorem parseLine_congr {l l' : List Char} (h : dropComment l = dropComment l') : parseLine l = parseLine l' := by
  unfold parseLine
  rw [h]

theorem signedDecimal_ne_nil (p : Int) : signedDecimal p ≠ [] := by
  unfold signedDecimal
  split
  · exact List.cons_ne_nil _ _
  · exact decimal_ne_nil _

/-- An operand is one word. -/
theorem wordsFrom_signedDecimal {p : Int} (hp : FitsArg p) : wordsFrom [] (signedDecimal p) = [signedDecimal p] := by
  have hsep : ∀ x ∈ signedDecimal p, x ≠ ' ' ∧ x ≠ '\t' := fun x hx =>
    (mem_signedDecimal (by omega) (by omega) hx).2
  simp [wordsFrom_word hsep, signedDecimal_ne_nil]

theorem positionOperand_signedDecimal {p : Int} (hp : FitsArg p) : positionOperand (signedDecimal p) = .ok p := by
  simp only [positionOperand, parseInt_signedDecimal (p := p) (by omega) (by omega), if_pos hp]

/-- A command whose line is a mnemonic and a position, and whose mnemonic is read as that command. -/
theorem parseLine_position_line {mk : Int → Instr} {m : List Char} {p : Int} (hp : FitsArg p) (hi : (mk p).WellFormed)
    (hwords : wordsFrom [] (lineOf (mk p)) = m :: wordsFrom [] (signedDecimal p))
    (hm : operandCommand m (signedDecimal p) = (positionOperand (signedDecimal p)).map mk) :
    parseLine (lineOf (mk p)) = .ok (some (mk p)) := by
  rw [wordsFrom_signedDecimal hp] at hwords
  rw [positionOperand_signedDecimal hp] at hm
  rw [parseLine, dropComment_of_no_comment (lineOf_no_comment hi), hwords]
  exact congrArg (Except.map some) hm

/-- R53: a line is read as the command it spells. -/
theorem parseLine_lineOf {i : Instr} (hi : i.WellFormed) : parseLine (lineOf i) = .ok (some i) := by
  cases i
  case loadp p => exact parseLine_position_line (of_decide_eq_true hi) hi rfl rfl
  case setpos p => exact parseLine_position_line (of_decide_eq_true hi) hi rfl rfl
  all_goals rfl

theorem parseLine_lineOf_comment {i : Instr} (hi : i.WellFormed) (comment : List Char) :
    parseLine (lineOf i ++ ';' :: comment) = .ok (some i) := by
  have hnone := lineOf_no_comment hi
  rw [← parseLine_lineOf hi]
  exact parseLine_congr ((dropComment_append hnone comment).trans (dropComment_of_no_comment hnone).symm)

/-! ### Programs -/

theorem assemble_cons_of_none {line : List Char} (h : parseLine line = .ok none) (lines : List (List Char)) :
    assemble (line :: lines) = assemble lines := by
  rw [assemble, h]

theorem assemble_cons_of_some {line : List Char} {i : Instr} (h : parseLine line = .ok (some i)) (lines : List (List Char)) :
    assemble (line :: lines) = (assemble lines).map (encode i :: ·) := by
  rw [assemble, h]

theorem assemble_lines {is : List Instr} (h : ∀ i ∈ is, i.WellFormed) (comment : List Char) :
    assemble (is.map fun i => lineOf i ++ ';' :: comment) = .ok (is.map encode) := by
  induction is with
  | nil => rfl
  | cons i is ih =>
    obtain ⟨hi, his⟩ := List.forall_mem_cons.1 h
    rw [List.map_cons, assemble_cons_of_some (parseLine_lineOf_comment hi comment), ih his]
    rfl

end Sys2Proof.Machine

namespace Sys2Proof.Proofs

open Sys2Proof.Machine

/-- Settles O1: the canonical word's fields are the command's opcode and the byte of its operand, and these decide the command. -/
theorem decodeInvertsEncode : Obligations.DecodeInvertsEncode := fun _ hi =>
  decode_eq_iff.2 ⟨opField_append _ _, Instr.takesOperandOf_encode hi⟩

/-- Settles O6: a mnemonic is one word and its operand, read back digit by digit, another. -/
theorem assemblerLineReadsBack : Obligations.AssemblerLineReadsBack := fun _ => parseLine_lineOf

/-- Settles O7: the first two lines give no word, and each further line, less its comment, the word of its command. -/
theorem assemblerEmitsCanonicalWords : Obligations.AssemblerEmitsCanonicalWords := by
  intro is comment h
  have hcomment : parseLine (';' :: comment) = .ok none := rfl
  have hblank : parseLine [] = .ok none := rfl
  rw [assemble_cons_of_none hcomment, assemble_cons_of_none hblank, assemble_lines h]

/-- Settles O2: a row selects the words of its opcode, and an opcode has one row. -/
theorem wordsDecodeByMaskAndMatch : Obligations.WordsDecodeByMaskAndMatch := by
  refine ⟨fun w => ?_, fun w => ⟨rowOf (opField w), mem_opcodeTable_iff.2 ⟨_, rfl⟩, rowOf_covers.2 rfl, fun r hr hcovers => ?_⟩⟩
  · and_intros
    all_goals exact decode_eq_iff_mask rfl rfl (by trivial)
  · obtain ⟨op, rfl⟩ := mem_opcodeTable_iff.1 hr
    rw [rowOf_covers.1 hcovers]

/-- Settles O3: the opcode alone decides a command without operand, whose argument byte is zero. -/
theorem argumentIgnoredWithoutOperand : Obligations.ArgumentIgnoredWithoutOperand := by
  constructor
  · intro v w hop h2 h3
    rw [← opcode_decode w] at hop h2 h3
    exact decode_eq_iff.2 ⟨hop, Instr.takesOperandOf_of_opcode_ne h2 h3 v⟩
  · intro i h2 h3
    exact (argField_append _ _).trans (Instr.argByte_of_opcode_ne h2 h3)

/-- Settles O4: both commands take the argument byte as a signed number, and the position register takes it back as the byte. -/
theorem operandIsSignExtendedArgument : Obligations.OperandIsSignExtendedArgument := by
  intro arg p
  have hp : p = arg.toInt := (toInt_eq_ite arg).symm
  rw [hp]
  exact ⟨decode_eq_iff.2 ⟨opField_append _ _, (operandOf_append _ _).symm⟩,
    decode_eq_iff.2 ⟨opField_append _ _, (operandOf_append _ _).symm⟩, BitVec.ofInt_toInt⟩

/-- Settles O12: NOP and the reserved commands are among those without an effect, and there is no fault to raise. -/
theorem nopAndReservedChangeNothing : Obligations.NopAndReservedChangeNothing := by
  refine ⟨fun s i hs hi => ?_, fun w hop => decode_eq_iff.2 ⟨hop, trivial⟩, rfl, fun w => decode_mem_reserved,
    fun w s f => nomatch f⟩
  obtain ⟨hv, hl⟩ := hs
  simp only [List.mem_cons, List.not_mem_nil, or_false] at hi
  obtain rfl | rfl | rfl | rfl | rfl | rfl | rfl | rfl | rfl | rfl := hi <;> exact inService_of_valid hv hl

end Sys2Proof.Proofs
end

section
/-! PROOFS. The sequencer (40_sequencer.md): TICK and INIT as whole next states (R61, R63), the cycle of ten slots (R64), and the output
train after reset (R66). -/

namespace Sys2Proof.Machine

/-! ### TICK and INIT -/

/-- TICK completes in every block that has been reset, but for an out-of-range position where it is encoded (R61, R76). -/
theorem exec_tick_of_inRange {s : State} (hv : s.cfg.Valid) (hl : s.block.live = true)
    (hp : s.cfg.encMode = .coarse → s.block.slot = 0 → s.cfg.InRange s.block.intPos) :
    exec .tick s =
      .next (s.withBlock (s.block.setOut (s.block.rendered s.cfg).1 (s.block.rendered s.cfg).2).advance) := by
  rw [exec, execTick, inService_of_valid hv hl]
  by_cases h0 : s.block.slot = 0
  · cases hm : s.cfg.encMode with
    | coarse => simp [Block.rendered, isPulseSlot_eq_true_iff, h0, hm, encoded_of_inRange (hp hm h0)]
    | fine => simp [Block.rendered, isPulseSlot_eq_true_iff, h0, hm]
  · simp [Block.rendered, isPulseSlot_eq_true_iff, h0]

/-- What TICK puts on the outputs, with the coarse encoding as the exact sum that it is within contract (R61, R67). -/
theorem Block.rendered_eq_ite {c : Config} {b : Block} (hv : c.Valid)
    (hp : c.encMode = .coarse → b.slot = 0 → c.InRange b.intPos) :
    b.rendered c =
      (if b.slot = 0 then (if c.encMode = .coarse then (c.baseOffset + b.pos.toInt).toNat else b.sh) else 0,
        if b.slot = 0 then (if c.encMode = .coarse then 0 else b.sl) else 0) := by
  by_cases h0 : b.slot = 0
  · cases hm : c.encMode with
    | coarse =>
      have hduty : dutyOf (dutyNat c b.intPos) = (c.baseOffset + b.pos.toInt).toNat := by
        rw [dutyOf_of_le (dutyNat_coarse hv hm (hp hm h0)).2, dutyNat, encodeDuty, hm]
        rfl
      simp [Block.rendered, h0, hm, hduty]
    | fine => simp [Block.rendered, h0, hm]
  · simp [Block.rendered, h0]

/-- The stored pair of INIT in FINE mode is CENTER's, by division (R63). -/
theorem resetBlock_stored {c : Config} (hm : c.encMode = .fine) :
    (resetBlock c).sh = c.center / 4 ∧ (resetBlock c).sl = BitVec.ofNat 2 (c.center % 4) := by
  have hduty : dutyNat c 0 = c.center := by simp [dutyNat, encodeDuty, hm]
  have hmod : c.center &&& 3 = c.center % 4 := Nat.and_two_pow_sub_one_eq_mod c.center 2
  simp [resetBlock, hm, hduty, highOf_eq, lowOf, hmod]

/-! ### Sequences of commands -/

theorem execs_cons_next_iff {i : Instr} {is : List Instr} {s t : State} :
    execs (i :: is) s = .next t ↔ ∃ u, exec i s = .next u ∧ execs is u = .next t := by
  rw [execs]
  cases exec i s <;> simp

theorem execs_append_of_next {is js : List Instr} {s u : State} (h : execs is s = .next u) :
    execs (is ++ js) s = execs js u := by
  induction is generalizing s with
  | nil =>
    cases h
    rfl
  | cons i is ih =>
    obtain ⟨v, hv, h⟩ := execs_cons_next_iff.1 h
    rw [List.cons_append, execs, hv]
    exact ih h

end Sys2Proof.Machine

namespace Sys2Proof.Safety

open Sys2Proof.Machine

theorem tickCount_cons (i : Instr) (is : List Instr) :
    tickCount (i :: is) = (if i = .tick then 1 else 0) + tickCount is := by
  simp [tickCount, List.countP_cons, Nat.add_comm]

theorem pulseTicks_cons_of_next {i : Instr} {s t : State} (h : exec i s = .next t) (is : List Instr) :
    pulseTicks (i :: is) s = (if i = .tick ∧ s.block.slot = 0 then 1 else 0) + pulseTicks is t := by
  rw [pulseTicks, h]

/-- The slot counts the TICKs modulo 10, and the TICKs at slot 0 are one for each multiple of 10 that the count meets before it moves on
(R64). -/
theorem execs_slot_pulseTicks {cs : List Instr} {s t : State} (hinit : ∀ i ∈ cs, i ≠ .init) (h : execs cs s = .next t) :
    t.block.slot.val = (s.block.slot.val + tickCount cs) % 10 ∧
      pulseTicks cs s + (s.block.slot.val + 9) / 10 = (s.block.slot.val + tickCount cs + 9) / 10 := by
  induction cs generalizing s with
  | nil =>
    cases h
    exact ⟨(Nat.mod_eq_of_lt t.block.slot.isLt).symm, Nat.zero_add _⟩
  | cons i is ih =>
    obtain ⟨hi, his⟩ := List.forall_mem_cons.1 hinit
    obtain ⟨u, hu, h⟩ := execs_cons_next_iff.1 h
    obtain ⟨hslot, hpulse⟩ := ih his h
    have hlt := s.block.slot.isLt
    have hnext := exec_next_slot hu
    rw [tickCount_cons, pulseTicks_cons_of_next hu]
    by_cases htick : i = .tick
    · have hzero : s.block.slot = 0 ↔ s.block.slot.val = 0 := Fin.ext_iff
      rw [if_pos htick] at hnext
      rw [hnext, nextSlot_val] at hslot hpulse
      simp only [htick, hzero, true_and, if_true]
      split <;> omega
    · rw [if_neg htick, if_neg hi] at hnext
      rw [hnext] at hslot hpulse
      simp only [htick, false_and, if_false, Nat.zero_add]
      exact ⟨hslot, hpulse⟩

/-! ### Runs of TICK and LOADP -/

/-- The block has been reset, and its position, and in FINE mode its stored pair, are those of the in-range position `p`. -/
structure Loaded (c : Config) (p : Int) (s : State) : Prop where
  cfg : s.cfg = c
  live : s.block.live = true
  inRange : c.InRange p
  pos : s.block.pos = posOf p
  stored : c.encMode = .fine → s.block.sh = highOf (dutyNat c p) ∧ s.block.sl = lowOf (dutyNat c p)

theorem loaded_resetWith (c : Config) : Loaded c 0 (State.resetWith c) where
  cfg := rfl
  live := rfl
  inRange := inRange_zero c
  pos := rfl
  stored := fun hm => not_torn_iff.1 (afterReset_not_torn hm)

section
variable {c : Config} {p : Int} {s : State}

theorem Loaded.intPos (h : Loaded c p s) (hv : c.Valid) : s.block.intPos = p := by
  rw [Block.intPos, h.pos, posOf_toInt hv h.inRange]

/-- TICK completes and leaves the loaded position as it is; its outputs are those of `Block.rendered`. -/
theorem Loaded.exec_tick (h : Loaded c p s) (hv : c.Valid) :
    ∃ t, exec .tick s = .next t ∧ Loaded c p t ∧ (pwmH t, pwmL t) = s.block.rendered c := by
  have hpos := h.intPos hv
  obtain ⟨rfl, hl, hp, hreg, hstored⟩ := h
  exact ⟨_, exec_tick_of_inRange hv hl fun _ _ => hpos.symm ▸ hp, ⟨rfl, hl, hp, hreg, hstored⟩, rfl⟩

theorem Loaded.exec_loadp (h : Loaded c p s) (hv : c.Valid) {q : Int} (hq : c.InRange q) :
    ∃ t, exec (.loadp q) s = .next t ∧ Loaded c q t := by
  obtain ⟨rfl, hl, -, -, -⟩ := h
  cases hm : s.cfg.encMode with
  | coarse =>
    exact ⟨_, (exec_loadp_coarse_next_iff hm).2 ⟨hv, hl, hq, rfl⟩, rfl, hl, hq, rfl, fun h => by simp [hm] at h⟩
  | fine => exact ⟨_, (exec_loadp_fine_next_iff hm).2 ⟨hv, hl, hq, rfl⟩, rfl, hl, hq, rfl, fun _ => ⟨rfl, rfl⟩⟩

/-- A run of TICK and in-range LOADP never stops, and the last position loaded stays loaded (R66). -/
theorem Loaded.execs_ticksAndLoads {cs : List Instr} (h : Loaded c p s) (hv : c.Valid) (hcs : TicksAndLoads c cs) :
    ∃ t, execs cs s = .next t ∧ Loaded c (lastLoaded p cs) t := by
  induction cs generalizing p s with
  | nil => exact ⟨s, rfl, h⟩
  | cons i is ih =>
    obtain ⟨hi, his⟩ := List.forall_mem_cons.1 hcs
    obtain rfl | ⟨q, rfl, hq⟩ := hi
    · obtain ⟨u, hu, hload, -⟩ := h.exec_tick hv
      obtain ⟨t, ht, hlast⟩ := ih hload his
      exact ⟨t, execs_cons_next_iff.2 ⟨u, hu, ht⟩, hlast⟩
    · obtain ⟨u, hu, hload⟩ := h.exec_loadp hv hq
      obtain ⟨t, ht, hlast⟩ := ih hload his
      exact ⟨t, execs_cons_next_iff.2 ⟨u, hu, ht⟩, hlast⟩

theorem Loaded.rendered_coarse (h : Loaded c p s) (hv : c.Valid) (hm : c.encMode = .coarse) (h0 : s.block.slot = 0) :
    s.block.rendered c = (dutyOf (dutyNat c p), 0) := by
  simp [Block.rendered, h0, hm, h.intPos hv]

theorem Loaded.rendered_fine (h : Loaded c p s) (hm : c.encMode = .fine) (h0 : s.block.slot = 0) :
    s.block.rendered c = (highOf (dutyNat c p), lowOf (dutyNat c p)) := by
  simp [Block.rendered, h0, hm, h.stored hm]

end

theorem TicksAndLoads.ne_init {c : Config} {cs : List Instr} (hcs : TicksAndLoads c cs) : ∀ i ∈ cs, i ≠ .init := by
  intro i hi
  obtain rfl | ⟨q, rfl, -⟩ := hcs i hi
  · exact Instr.noConfusion
  · exact Instr.noConfusion

end Sys2Proof.Safety

namespace Sys2Proof.Proofs

open Sys2Proof.Machine Sys2Proof.Safety

/-- Settles O32: among ten numbers in a row one is a multiple of 10, and ten more leave the slot's residue. -/
theorem tenTicksMakeOneCycle : Obligations.TenTicksMakeOneCycle := by
  intro cs s t hinit hcount h
  obtain ⟨hslot, hpulse⟩ := execs_slot_pulseTicks hinit h
  have hlt := s.block.slot.isLt
  rw [hcount] at hslot hpulse
  exact ⟨Fin.ext (by omega), by omega⟩

/-- Settles O33: the run keeps the last position loaded, its TICKs are counted by the slot, and one more TICK renders that slot. -/
theorem outputTrainAfterReset : Obligations.OutputTrainAfterReset := by
  intro c cs hv hcs
  obtain ⟨s, hs, hload⟩ := (loaded_resetWith c).execs_ticksAndLoads hv hcs
  have hslot : s.block.slot.val = tickCount cs % 10 :=
    (execs_slot_pulseTicks hcs.ne_init hs).1.trans (congrArg (· % 10) (Nat.zero_add _))
  have hzero : s.block.slot = 0 ↔ tickCount cs % 10 = 0 := hslot ▸ Fin.ext_iff
  obtain ⟨t, ht, hloadt, hout⟩ := hload.exec_tick hv
  refine ⟨t, ?run, ?slot, hloadt.pos, fun hne => ?empty, fun h0 hm => ?coarse, fun h0 hm => ?fine⟩
  case run => rw [execs_append_of_next hs, execs_cons_next_iff.2 ⟨t, ht, rfl⟩]
  case slot =>
    rw [exec_next_slot ht, if_pos rfl, nextSlot_val]
    omega
  case empty => exact Prod.mk.inj (hout.trans (if_neg (mt hzero.1 hne)))
  case coarse => exact Prod.mk.inj (hout.trans (hload.rendered_coarse hv hm (hzero.2 h0)))
  case fine => exact Prod.mk.inj (hout.trans (hload.rendered_fine hm (hzero.2 h0)))

/-- Settles O13: the outputs are the rendering of the slot before the command. -/
theorem tickRendersSlotAndAdvances : Obligations.TickRendersSlotAndAdvances := by
  refine ⟨fun s hs hp => ?_, fun w hop => decode_eq_iff.2 ⟨hop, trivial⟩, rfl⟩
  obtain ⟨hv, hl⟩ := hs
  rw [exec_tick_of_inRange hv hl hp, Block.rendered_eq_ite hv hp, ← nextSlot_eq]
  rfl

/-- Settles O14: INIT checks the parameters alone, every other command checks `live` too. -/
theorem initGivesInitialState : Obligations.InitGivesInitialState := by
  refine ⟨fun s hv => ⟨s.withBlock (resetBlock s.cfg), exec_init_next_iff.2 ⟨hv, rfl⟩, exec_init_next_iff.2 ⟨hv, rfl⟩,
    rfl, rfl, rfl, rfl, rfl, resetBlock_stored, rfl, rfl, rfl, rfl⟩, fun s i hl hi t h => ?_,
    fun w hop => decode_eq_iff.2 ⟨hop, trivial⟩, rfl⟩
  obtain ⟨k, hk⟩ := exec_eq_inService hi s
  obtain ⟨-, hlive, -⟩ := inService_next_iff.1 (hk.symm.trans h)
  rw [hl] at hlive
  exact Bool.false_ne_true hlive

end Sys2Proof.Proofs
end

section
/-! PROOFS. The duty-cycle encoder (41_encoder.md): the encoding and its fields (R67 to R69), the commands LOADP, SETPOS, ENCH and ENCL
(R71 to R76), and the split load (R77, R78). -/

namespace Sys2Proof

/-- The canonical word's value: the opcode above the argument byte (R44). -/
theorem encode_toNat (i : Instr) : (encode i).toNat = i.opcode.toNat <<< 8 ||| i.argByte.toNat := BitVec.toNat_append _ _

/-- The argument byte of an operand is `p mod 256` (R53). -/
theorem ofInt_byte_toNat (p : Int) : (BitVec.ofInt 8 p).toNat = (p % 256).toNat := BitVec.toNat_ofInt p

end Sys2Proof

namespace Sys2Proof.Machine

/-! ### The encoding and its fields -/

theorem rawOf_fieldsOf (raw : Nat) : rawOf (fieldsOf raw).1 (fieldsOf raw).2 = raw := by
  rw [rawOf_eq, fieldsOf, highOf_eq, lowOf_toNat]
  exact Nat.div_add_mod raw 4

theorem fieldsOf_rawOf (h : Nat) (l : LowField) : fieldsOf (rawOf h l) = (h, l) := by
  have hl := l.isLt
  have hhigh : highOf (rawOf h l) = h := by
    rw [highOf_eq, rawOf_eq]
    omega
  have hlow : lowOf (rawOf h l) = l := by
    apply BitVec.eq_of_toNat_eq
    rw [lowOf_toNat, rawOf_eq]
    omega
  exact Prod.ext hhigh hlow

/-- Two fields of HIGH_WIDTH and 2 bits make a raw value of RAW_WIDTH bits (R69). -/
theorem rawOf_le {c : Config} {h : Nat} (hh : h < 2 ^ c.highWidth) (l : LowField) : rawOf h l ≤ 2 ^ c.rawWidth - 1 := by
  have hl := l.isLt
  rw [rawOf_eq, Config.rawWidth, pow_add]
  omega

/-- The fields lose nothing of the raw value (R69). -/
theorem fieldsOf_injective : Function.Injective fieldsOf := fun a b h => by
  rw [← rawOf_fieldsOf a, h, rawOf_fieldsOf]

theorem lowOf_eq_ofInt (raw : Nat) : lowOf raw = BitVec.ofInt 2 (raw % 4) := by
  apply BitVec.eq_of_toNat_eq
  rw [lowOf_toNat, BitVec.toNat_ofInt]
  omega

section
variable {c : Config} {p q : Int} (hv : c.Valid) (hm : c.encMode = .fine)
include hv hm

theorem dutyNat_fine_injective (hp : c.InRange p) (hq : c.InRange q) (h : dutyNat c p = dutyNat c q) : p = q := by
  have hdp := (dutyNat_fine hv hm hp).1
  have hdq := (dutyNat_fine hv hm hq).1
  omega

/-- The high field of an in-range position by integer division (R67, R68). -/
theorem highOf_dutyNat_fine (hp : c.InRange p) : highOf (dutyNat c p) = ((c.center + p) / 4).toNat := by
  rw [← (dutyNat_fine hv hm hp).1, highOf_eq]
  omega

/-- The low field of an in-range position by integer remainder (R67, R68). -/
theorem lowOf_dutyNat_fine (hp : c.InRange p) : lowOf (dutyNat c p) = BitVec.ofInt 2 ((c.center + p) % 4) := by
  rw [← (dutyNat_fine hv hm hp).1, lowOf_eq_ofInt]

end

/-! ### The commands within contract -/

section
variable {s : State} (hv : s.cfg.Valid) (hl : s.block.live = true)
include hv hl

theorem exec_setpos {p : Int} (hp : s.cfg.InRange p) :
    exec (.setpos p) s = .next (s.withBlock (s.block.setPos (posOf p))) :=
  exec_setpos_next_iff.2 ⟨hv, hl, hp, rfl⟩

theorem exec_loadp_coarse (hm : s.cfg.encMode = .coarse) {p : Int} (hp : s.cfg.InRange p) :
    exec (.loadp p) s = .next (s.withBlock (s.block.setPos (posOf p))) :=
  (exec_loadp_coarse_next_iff hm).2 ⟨hv, hl, hp, rfl⟩

theorem exec_loadp_fine (hm : s.cfg.encMode = .fine) {p : Int} (hp : s.cfg.InRange p) :
    exec (.loadp p) s = .next (s.withBlock (((s.block.setPos (posOf p)).writeHigh (highOf (dutyNat s.cfg p))).writeLow
      (lowOf (dutyNat s.cfg p)))) :=
  (exec_loadp_fine_next_iff hm).2 ⟨hv, hl, hp, rfl⟩

theorem exec_ench_fine (hm : s.cfg.encMode = .fine) {p : Int} (hpos : s.block.intPos = p) (hp : s.cfg.InRange p) :
    exec .ench s = .next (s.withBlock (s.block.writeHigh (highOf (dutyNat s.cfg p)))) := by
  subst hpos
  exact (exec_ench_fine_next_iff hm).2 ⟨hv, hl, hp, rfl⟩

theorem exec_encl_fine (hm : s.cfg.encMode = .fine) {p : Int} (hpos : s.block.intPos = p) (hp : s.cfg.InRange p) :
    exec .encl s = .next (s.withBlock (s.block.writeLow (lowOf (dutyNat s.cfg p)))) := by
  subst hpos
  exact (exec_encl_fine_next_iff hm).2 ⟨hv, hl, hp, rfl⟩

theorem exec_ench_coarse (hm : s.cfg.encMode = .coarse) : exec .ench s = .next s :=
  exec_of_no_effect hv hl nofun nofun nofun nofun (hm ▸ nofun)

theorem exec_encl_coarse (hm : s.cfg.encMode = .coarse) : exec .encl s = .next s :=
  exec_of_no_effect hv hl nofun nofun nofun nofun (hm ▸ nofun)

/-- At the pulse slot TICK in FINE mode emits the stored pair as it stands (R62(d)). -/
theorem exec_tick_fine_pulse (hm : s.cfg.encMode = .fine) (h0 : s.block.slot = 0) :
    exec .tick s = .next (s.withBlock (s.block.setOut s.block.sh s.block.sl).advance) := by
  rw [exec_tick_of_inRange hv hl (hm ▸ nofun)]
  simp [Block.rendered, h0, hm]

end

/-- In COARSE mode no command writes `ol` with anything but 0 (R75). -/
theorem exec_coarse_next_outLow {i : Instr} {s t : State} (hm : s.cfg.encMode = .coarse) (h : exec i s = .next t) :
    t.block.ol = s.block.ol ∨ t.block.ol = 0 := by
  obtain ⟨-, ⟨-, rfl⟩ | ⟨-, ⟨rfl, -⟩ | ⟨-, -, -, -, rfl⟩ | ⟨-, -, hf, -⟩ | ⟨-, -, rfl⟩ | ⟨p, -, -, -, rfl⟩ |
    ⟨p, -, -, hf, -⟩ | ⟨p, -, -, rfl⟩ | ⟨-, hf, -⟩ | ⟨-, hf, -⟩⟩⟩ := exec_cases h
  · exact .inr rfl
  · exact .inl rfl
  · exact .inr rfl
  · exact nomatch hm.symm.trans hf
  · exact .inr rfl
  · exact .inl rfl
  · exact nomatch hm.symm.trans hf
  · exact .inl rfl
  · exact nomatch hm.symm.trans hf
  · exact nomatch hm.symm.trans hf

/-! ### Out of contract -/

theorem encoded_of_not_inRange {s : State} {p : Int} {k : Nat → Result} (hp : ¬ s.cfg.InRange p) :
    encoded s p k = .refused .positionOutOfRange := if_neg hp

section
variable {s : State} (hv : s.cfg.Valid) (hl : s.block.live = true)
include hv hl

theorem exec_loadp_of_not_inRange {p : Int} (hp : ¬ s.cfg.InRange p) :
    exec (.loadp p) s = .refused .positionOutOfRange := by
  rw [exec, execLoadp, inService_of_valid hv hl, encoded_of_not_inRange hp]

theorem exec_setpos_of_not_inRange {p : Int} (hp : ¬ s.cfg.InRange p) :
    exec (.setpos p) s = .refused .positionOutOfRange := by
  rw [exec, execSetpos, inService_of_valid hv hl, encoded_of_not_inRange hp]

theorem exec_ench_of_not_inRange (hm : s.cfg.encMode = .fine) (hp : ¬ s.cfg.InRange s.block.intPos) :
    exec .ench s = .refused .positionOutOfRange := by
  simp only [exec, execEnch, inService_of_valid hv hl, hm, encoded_of_not_inRange hp]

theorem exec_encl_of_not_inRange (hm : s.cfg.encMode = .fine) (hp : ¬ s.cfg.InRange s.block.intPos) :
    exec .encl s = .refused .positionOutOfRange := by
  simp only [exec, execEncl, inService_of_valid hv hl, hm, encoded_of_not_inRange hp]

theorem exec_tick_of_not_inRange (hm : s.cfg.encMode = .coarse) (h0 : s.block.slot = 0)
    (hp : ¬ s.cfg.InRange s.block.intPos) : exec .tick s = .refused .positionOutOfRange := by
  simp only [exec, execTick, inService_of_valid hv hl, (isPulseSlot_eq_true_iff _).2 h0, if_true, hm,
    encoded_of_not_inRange hp]

end

/-! ### The split load -/

theorem execs_cons_of_refused {i : Instr} {s : State} {r : Refusal} (h : exec i s = .refused r) (is : List Instr) :
    execs (i :: is) s = .refused r := by
  rw [execs, h]

theorem execs_setpos_cons {s : State} (hv : s.cfg.Valid) (hl : s.block.live = true) {q : Int} (hq : s.cfg.InRange q)
    (is : List Instr) : execs (.setpos q :: is) s = execs is (s.withBlock (s.block.setPos (posOf q))) :=
  execs_append_of_next (is := [.setpos q]) (execs_cons_next_iff.2 ⟨_, exec_setpos hv hl hq, rfl⟩)

section
variable {s : State} (hv : s.cfg.Valid) (hl : s.block.live = true) (hm : s.cfg.encMode = .fine)
include hv hm

/-- After commands that leave the pulse slot where it is, TICK emits the stored pair they leave (R62(d), R78). -/
theorem execs_append_tick_pulse {cs : List Instr} {b : Block} (h : execs cs s = .next (s.withBlock b)) (hb : b.live = true)
    (h0 : b.slot = 0) : ∃ t, execs (cs ++ [.tick]) s = .next t ∧ t.block.oh = b.sh ∧ t.block.ol = b.sl := by
  have htick := exec_tick_fine_pulse (s := s.withBlock b) hv hb hm h0
  exact ⟨_, (execs_append_of_next h).trans (execs_cons_next_iff.2 ⟨_, htick, rfl⟩), rfl, rfl⟩

include hl

theorem execs_ench_encl {p : Int} (hpos : s.block.intPos = p) (hp : s.cfg.InRange p) :
    execs [.ench, .encl] s = .next (s.withBlock ((s.block.writeHigh (highOf (dutyNat s.cfg p))).writeLow
      (lowOf (dutyNat s.cfg p)))) :=
  execs_cons_next_iff.2 ⟨_, exec_ench_fine hv hl hm hpos hp, execs_cons_next_iff.2
    ⟨_, exec_encl_fine (s := s.withBlock (s.block.writeHigh (highOf (dutyNat s.cfg p)))) hv hl hm hpos hp, rfl⟩⟩

theorem execs_encl_ench {p : Int} (hpos : s.block.intPos = p) (hp : s.cfg.InRange p) :
    execs [.encl, .ench] s = .next (s.withBlock ((s.block.writeHigh (highOf (dutyNat s.cfg p))).writeLow
      (lowOf (dutyNat s.cfg p)))) :=
  execs_cons_next_iff.2 ⟨_, exec_encl_fine hv hl hm hpos hp, execs_cons_next_iff.2
    ⟨_, exec_ench_fine (s := s.withBlock (s.block.writeLow (lowOf (dutyNat s.cfg p)))) hv hl hm hpos hp, rfl⟩⟩

/-- The field commands commute; over an out-of-range position both orders are refused (R77, R76). -/
theorem execs_ench_encl_comm : execs [.ench, .encl] s = execs [.encl, .ench] s := by
  by_cases hp : s.cfg.InRange s.block.intPos
  · rw [execs_ench_encl hv hl hm rfl hp, execs_encl_ench hv hl hm rfl hp]
  · rw [execs_cons_of_refused (exec_ench_of_not_inRange hv hl hm hp),
      execs_cons_of_refused (exec_encl_of_not_inRange hv hl hm hp)]

section
variable {q : Int} (hq : s.cfg.InRange q)
include hq

theorem execs_setpos_ench :
    execs [.setpos q, .ench] s = .next (s.withBlock ((s.block.setPos (posOf q)).writeHigh (highOf (dutyNat s.cfg q)))) :=
  (execs_setpos_cons hv hl hq _).trans (execs_cons_next_iff.2
    ⟨_, exec_ench_fine (s := s.withBlock (s.block.setPos (posOf q))) hv hl hm (intPos_setPos_posOf hv hq) hq, rfl⟩)

theorem execs_setpos_encl :
    execs [.setpos q, .encl] s = .next (s.withBlock ((s.block.setPos (posOf q)).writeLow (lowOf (dutyNat s.cfg q)))) :=
  (execs_setpos_cons hv hl hq _).trans (execs_cons_next_iff.2
    ⟨_, exec_encl_fine (s := s.withBlock (s.block.setPos (posOf q))) hv hl hm (intPos_setPos_posOf hv hq) hq, rfl⟩)

/-- The split load with the high field first ends where LOADP ends (R77). -/
theorem execs_setpos_ench_encl : execs [.setpos q, .ench, .encl] s = exec (.loadp q) s := by
  rw [execs_setpos_cons hv hl hq, exec_loadp_fine hv hl hm hq]
  exact execs_ench_encl (s := s.withBlock (s.block.setPos (posOf q))) hv hl hm (intPos_setPos_posOf hv hq) hq

/-- The split load with the low field first ends there too (R77). -/
theorem execs_setpos_encl_ench : execs [.setpos q, .encl, .ench] s = exec (.loadp q) s := by
  rw [execs_setpos_cons hv hl hq, exec_loadp_fine hv hl hm hq]
  exact execs_encl_ench (s := s.withBlock (s.block.setPos (posOf q))) hv hl hm (intPos_setPos_posOf hv hq) hq

end

end

end Sys2Proof.Machine

namespace Sys2Proof.Proofs

open Sys2Proof.Machine Sys2Proof.Safety

/-- Settles O9: the split is division by 4 with remainder, and the encoding adds CENTER without a borrow. -/
theorem fieldSplitRoundTrip : Obligations.FieldSplitRoundTrip :=
  ⟨fun _ raw hraw => ⟨highOf_lt hraw, rawOf_fieldsOf raw⟩,
    fun _ h l hh => ⟨rawOf_eq h l, rawOf_le hh l, fieldsOf_rawOf h l⟩,
    fun _ _ _ hv hm hp hq h => dutyNat_fine_injective hv hm hp hq (fieldsOf_injective h)⟩

/-- Settles O11: the mixed value is `4 * (a / 4) + b % 4`, for raw values of every width. -/
theorem tornPairGlitchBound : Obligations.TornPairGlitchBound := by
  intro c a b _ _
  rw [rawOf_eq, highOf_eq, lowOf_toNat]
  omega

/-- Settles O27: SETPOS and the field commands write LOADP's registers one by one. -/
theorem splitLoadEndsLikeLoadp : Obligations.SplitLoadEndsLikeLoadp := by
  rintro s p ⟨hv, hl⟩ hm hp
  exact ⟨execs_setpos_ench_encl hv hl hm hp, execs_setpos_encl_ench hv hl hm hp, execs_ench_encl_comm hv hl hm, _,
    exec_loadp_fine hv hl hm hp⟩

/-- Settles O28: the pulse emits the stored pair, and each command before it has made its own half of it new. -/
theorem pulseInsideSplitLoad : Obligations.PulseInsideSplitLoad := by
  rintro s b ⟨hv, hl⟩ hm h0 hb hwhole
  obtain ⟨hhigh, hlow⟩ := not_torn_iff.1 hwhole
  refine ⟨?setpos, ?ench, ?encl⟩
  case setpos =>
    obtain ⟨t, ht, hoh, hol⟩ := execs_append_tick_pulse hv hm (cs := [.setpos b])
      (execs_setpos_cons hv hl hb []) hl h0
    exact ⟨t, ht, hoh.trans hhigh, hol.trans hlow⟩
  case ench =>
    obtain ⟨t, ht, hoh, hol⟩ := execs_append_tick_pulse hv hm (execs_setpos_ench hv hl hm hb) hl h0
    exact ⟨t, ht, hoh, hol.trans hlow⟩
  case encl =>
    obtain ⟨t, ht, hoh, hol⟩ := execs_append_tick_pulse hv hm (execs_setpos_encl hv hl hm hb) hl h0
    exact ⟨t, ht, hoh.trans hhigh, hol⟩

/-- Settles O8: the valid parameters leave room for every in-range position on both sides. -/
theorem encodingWithinContract : Obligations.EncodingWithinContract := by
  refine fun c p hv hp => ⟨fun hm => ?coarse, fun hm => ?fine⟩
  case coarse =>
    obtain ⟨hexact, hle⟩ := dutyNat_coarse hv hm hp
    exact ⟨hexact, dutyOf_of_le hle⟩
  case fine =>
    obtain ⟨hexact, hle⟩ := dutyNat_fine hv hm hp
    exact ⟨hexact, highOf_lt hle, (rawOf_eq _ _).symm.trans (rawOf_fieldsOf _)⟩

/-- Settles O10: the encodings of neighbours are neighbours, and division by 4 parts two neighbours after a 3 modulo 4 alone. -/
theorem adjacentPositionsShareHighField : Obligations.AdjacentPositionsShareHighField := by
  intro c p hv hm hp hp1
  have hnext : dutyNat c (p + 1) = dutyNat c p + 1 := by
    have h := (dutyNat_fine hv hm hp).1
    have h1 := (dutyNat_fine hv hm hp1).1
    omega
  rw [hnext, highOf_eq, highOf_eq]
  omega

/-- Settles O15: LOADP's fields are those of the encoding, by division. -/
theorem loadpSetsPositionAndReencodes : Obligations.LoadpSetsPositionAndReencodes := by
  refine ⟨?_, fun p _ => ?_⟩
  · rintro s p ⟨hv, hl⟩ hp
    refine ⟨fun hm => ?_, fun hm => exec_loadp_coarse hv hl hm hp⟩
    rw [exec_loadp_fine hv hl hm hp, highOf_dutyNat_fine hv hm hp, lowOf_dutyNat_fine hv hm hp]
    rfl
  · rw [← ofInt_byte_toNat]
    exact encode_toNat _

/-- Settles O16: SETPOS does in both modes what LOADP does in COARSE mode. -/
theorem setposWritesPositionOnly : Obligations.SetposWritesPositionOnly := by
  refine ⟨fun s p ⟨hv, hl⟩ hp => exec_setpos hv hl hp, fun s p ⟨hv, hl⟩ hp hm => ?_, fun p _ => ?_⟩
  · rw [exec_setpos hv hl hp, exec_loadp_coarse hv hl hm hp]
  · rw [← ofInt_byte_toNat]
    exact encode_toNat _

/-- Settles O17: ENCH's field is the encoding's high one, by division. -/
theorem enchWritesHighFieldThrough : Obligations.EnchWritesHighFieldThrough := by
  refine ⟨?_, fun w hop => decode_eq_iff.2 ⟨hop, trivial⟩, rfl⟩
  rintro s ⟨hv, hl⟩
  refine ⟨fun hm (hp : s.cfg.InRange s.block.intPos) => ?_, exec_ench_coarse hv hl⟩
  rw [exec_ench_fine hv hl hm rfl hp, highOf_dutyNat_fine hv hm hp]
  rfl

/-- Settles O18: ENCL's field is the encoding's low one, by remainder. -/
theorem enclWritesLowFieldThrough : Obligations.EnclWritesLowFieldThrough := by
  refine ⟨?_, fun w hop => decode_eq_iff.2 ⟨hop, trivial⟩, rfl⟩
  rintro s ⟨hv, hl⟩
  refine ⟨fun hm (hp : s.cfg.InRange s.block.intPos) => ?_, exec_encl_coarse hv hl⟩
  rw [exec_encl_fine hv hl hm rfl hp, lowOf_dutyNat_fine hv hm hp]
  rfl

/-- Settles O19: in COARSE mode the low output is written by TICK and INIT alone, with 0. -/
theorem encoderCommandsInCoarseMode : Obligations.EncoderCommandsInCoarseMode := by
  rintro s ⟨hv, hl⟩ hm
  refine ⟨fun p hp => ⟨exec_loadp_coarse hv hl hm hp, exec_setpos hv hl hp⟩, exec_ench_coarse hv hl hm, exec_encl_coarse hv hl hm,
    fun i t => exec_coarse_next_outLow hm, fun h0 hp => ?pulse⟩
  case pulse =>
    have hrendered := Block.rendered_eq_ite hv fun _ _ => hp
    refine ⟨_, exec_tick_of_inRange hv hl fun _ _ => hp, ?_, ?_⟩
    · simp [hrendered, h0, hm]
    · simp [hrendered, h0, hm]

/-- Settles O20: the check of the range stands before every encoding. -/
theorem outOfRangePositionRefused : Obligations.OutOfRangePositionRefused :=
  ⟨fun _ _ ⟨hv, hl⟩ hp => ⟨exec_loadp_of_not_inRange hv hl hp, exec_setpos_of_not_inRange hv hl hp⟩,
    fun _ ⟨hv, hl⟩ hp => ⟨fun hm => ⟨exec_ench_of_not_inRange hv hl hm hp, exec_encl_of_not_inRange hv hl hm hp⟩,
      fun hm h0 => exec_tick_of_not_inRange hv hl hm h0 hp⟩⟩

end Sys2Proof.Proofs
end

section
/-! PROOFS. A torn pair exists only inside a SPLIT load (R78 of 41_encoder.md, R141 of 70_reset_and_hazards.md): what each command
leaves of a handler's phase, and that every move of the documented host keeps the phases. -/

namespace Sys2Proof.Machine

theorem exec_next_live {i : Instr} {s t : State} (h : exec i s = .next t) (hl : s.block.live = true) : t.block.live = true := by
  obtain ⟨-, ⟨-, rfl⟩ | ⟨-, ⟨rfl, -⟩ | ⟨-, -, -, -, rfl⟩ | ⟨-, -, -, rfl⟩ | ⟨-, -, rfl⟩ | ⟨p, -, -, -, rfl⟩ |
    ⟨p, -, -, -, rfl⟩ | ⟨p, -, -, rfl⟩ | ⟨-, -, -, rfl⟩ | ⟨-, -, -, rfl⟩⟩⟩ := exec_cases h
  case inl => rfl
  all_goals exact hl

/-- LOADP writes the stored pair whole (R71). -/
theorem exec_loadp_next_not_torn {s t : State} {p : Int} (h : exec (.loadp p) s = .next t) (hm : s.cfg.encMode = .fine) :
    ¬ torn t.cfg t.block := by
  obtain ⟨hv, -, hp, rfl⟩ := (exec_loadp_fine_next_iff hm).1 h
  have hpos : (s.block.setPos (posOf p)).intPos = p := intPos_setPos_posOf hv hp
  exact not_torn_iff.2 ⟨congrArg (fun q => highOf (dutyNat s.cfg q)) hpos.symm,
    congrArg (fun q => lowOf (dutyNat s.cfg q)) hpos.symm⟩

/-! ### What the host's own start and the taking of an event do to the handlers -/

theorem HostState.initialized_of_idle (h : HostState) (v : HostVariant) (hidle : h.high = [] ∧ h.low = []) :
    (h.initialized v).up = true ∧ (h.initialized v).high = [] ∧ (h.initialized v).low = [] := by
  cases v <;> exact ⟨rfl, hidle⟩

theorem takeEvent_host_up (p : Pick) (e : Event) (s : State) : (takeEvent p e s).host.up = s.host.up :=
  HostState.start_up _ _ _

theorem takeEvent_host_of_high {p : Pick} {e : Event} {s : State} (h : level s.cfg.hostVariant e = .high) :
    (takeEvent p e s).host.high = (handler p.highFirst s e).2 ∧ (takeEvent p e s).host.low = s.host.low := by
  rw [takeEvent, h]
  exact ⟨rfl, rfl⟩

theorem takeEvent_host_of_low {p : Pick} {e : Event} {s : State} (h : level s.cfg.hostVariant e = .low) :
    (takeEvent p e s).host.low = (handler p.highFirst s e).2 ∧ (takeEvent p e s).host.high = s.host.high := by
  rw [takeEvent, h]
  exact ⟨rfl, rfl⟩

end Sys2Proof.Machine

namespace Sys2Proof.Safety

open Sys2Proof.Machine

/-! ### The phases of a LOW handler -/

theorem LowPhase.not_torn {c : Config} {b : Block} (h : LowPhase c b []) : ¬ torn c b := by
  obtain ⟨-, h⟩ | ⟨⟨q, hl⟩, -⟩ | ⟨⟨q, hl | hl⟩, -⟩ | (hl | hl) | ⟨hl, -⟩ | ⟨hl, -⟩ := h
  · exact h
  all_goals cases hl

/-- A load begins over a whole pair, in either style and order. -/
theorem lowPhase_loadCommands {c : Config} {b : Block} (h : ¬ torn c b) (style : LoadStyle) (highFirst : Bool) (q : Int) :
    LowPhase c b (loadCommands style highFirst q) := by
  cases style with
  | atomic => exact .inr (.inl ⟨⟨q, rfl⟩, h⟩)
  | split =>
    cases highFirst with
    | true => exact .inr (.inr (.inl ⟨⟨q, .inl rfl⟩, h⟩))
    | false => exact .inr (.inr (.inl ⟨⟨q, .inr rfl⟩, h⟩))

/-- TICK moves neither the position nor the stored pair. -/
theorem LowPhase.exec_tick {s t : State} {low : List Instr} (ht : exec .tick s = .next t) (h : LowPhase s.cfg s.block low) :
    LowPhase t.cfg t.block low := by
  rw [exec_tick_next ht]
  exact h

/-- The handler's own next command leads to the phase of what then remains: SETPOS may tear the pair, the first field command makes one
half of it new, and the second makes it whole. -/
theorem LowPhase.exec_cons {s t : State} {i : Instr} {rest : List Instr} (ht : exec i s = .next t) (hm : s.cfg.encMode = .fine)
    (h : LowPhase s.cfg s.block (i :: rest)) : LowPhase t.cfg t.block rest := by
  obtain ⟨hl, -⟩ | ⟨⟨q, hl⟩, -⟩ | ⟨⟨q, hl | hl⟩, -⟩ | (hl | hl) | ⟨hl, hlow⟩ | ⟨hl, hhigh⟩ := h
  all_goals cases hl
  · exact .inl ⟨rfl, exec_loadp_next_not_torn ht hm⟩
  · exact .inr (.inr (.inr (.inl (.inl rfl))))
  · exact .inr (.inr (.inr (.inl (.inr rfl))))
  · obtain ⟨-, -, -, rfl⟩ := (exec_ench_fine_next_iff hm).1 ht
    exact .inr (.inr (.inr (.inr (.inr ⟨rfl, rfl⟩))))
  · obtain ⟨-, -, -, rfl⟩ := (exec_encl_fine_next_iff hm).1 ht
    exact .inr (.inr (.inr (.inr (.inl ⟨rfl, rfl⟩))))
  · obtain ⟨-, -, -, rfl⟩ := (exec_ench_fine_next_iff hm).1 ht
    exact .inl ⟨rfl, not_torn_iff.2 ⟨rfl, hlow⟩⟩
  · obtain ⟨-, -, -, rfl⟩ := (exec_encl_fine_next_iff hm).1 ht
    exact .inl ⟨rfl, not_torn_iff.2 ⟨hhigh, rfl⟩⟩

/-! ### The phases of a HIGH handler -/

/-- The next command of a HIGH handler is TICK, or LOADP in the sweep variant, and what remains is a phase again. -/
theorem HighPhase.cons {v : HostVariant} {i : Instr} {rest : List Instr} (h : HighPhase v (i :: rest)) :
    HighPhase v rest ∧ (i = .tick ∨ v = .sweep ∧ ∃ q, i = .loadp q) := by
  cases v with
  | direct =>
    obtain h | h := h
    all_goals cases h
    exact ⟨.inl rfl, .inl rfl⟩
  | sweep =>
    obtain h | h | ⟨q, h | h | h⟩ := h
    all_goals cases h
    · exact ⟨.inl rfl, .inl rfl⟩
    · exact ⟨.inl rfl, .inr ⟨rfl, q, rfl⟩⟩
    · exact ⟨.inr (.inl rfl), .inr ⟨rfl, q, rfl⟩⟩
    · exact ⟨.inr (.inr ⟨q, .inl rfl⟩), .inl rfl⟩

theorem highPhase_tickCommands (order : TickOrder) (load : Option Int) : HighPhase .sweep (tickCommands order load) := by
  cases load with
  | none => cases order <;> exact .inr (.inl rfl)
  | some q =>
    cases order with
    | controllerFirst => exact .inr (.inr ⟨q, .inr (.inl rfl)⟩)
    | sequencerFirst => exact .inr (.inr ⟨q, .inr (.inr rfl)⟩)

/-- The handler of a HIGH event is one TICK, in the sweep variant perhaps with a load, or nothing (R107, R111). -/
theorem highPhase_handler {s : State} {e : Event} (he : level s.cfg.hostVariant e = .high) (highFirst : Bool) :
    HighPhase s.cfg.hostVariant (handler highFirst s e).2 := by
  unfold handler
  cases hv : s.cfg.hostVariant with
  | sweep =>
    cases e with
    | tick => exact highPhase_tickCommands _ _
    | buttonA => exact .inl rfl
    | buttonB => exact .inl rfl
  | direct =>
    rw [hv] at he
    cases e with
    | tick => exact .inr rfl
    | buttonA => cases he
    | buttonB => cases he

/-- LOW events are the buttons of the direct variant, and their handlers load a position (R108, R111). -/
theorem handler_of_level_low {s : State} {e : Event} (he : level s.cfg.hostVariant e = .low) (highFirst : Bool) :
    s.cfg.hostVariant = .direct ∧ ∃ q, (handler highFirst s e).2 = loadCommands s.cfg.loadStyle highFirst q := by
  unfold handler
  cases hv : s.cfg.hostVariant with
  | sweep =>
    rw [hv] at he
    cases e <;> cases he
  | direct =>
    rw [hv] at he
    cases e with
    | tick => cases he
    | buttonA => exact ⟨rfl, _, rfl⟩
    | buttonB => exact ⟨rfl, _, rfl⟩

/-! ### The host's moves -/

section
variable {s t : State}

/-- The invariant speaks of the parameters, the block, and the host's two handlers and `up`. -/
theorem TornInv.congr (hs : TornInv s) (hcfg : t.cfg = s.cfg) (hblock : t.block = s.block) (hhigh : t.host.high = s.host.high)
    (hlow : t.host.low = s.host.low) (hup : t.host.up = s.host.up) : TornInv t := by
  obtain ⟨h1, h2, h3, h4, h5⟩ := hs
  constructor <;> simpa only [hcfg, hblock, hhigh, hlow, hup]

theorem TornInv.initializeAll_next (hs : TornInv s) (hup : s.host.up = false) (h : initializeAll s = .next t) : TornInv t := by
  obtain ⟨-, rfl⟩ := exec_init_next_iff.1 h
  obtain ⟨hup', hhigh, hlow⟩ := s.host.initialized_of_idle s.cfg.hostVariant (hs.down_idle hup)
  exact ⟨fun _ hm => .inl ⟨hlow, resetBlock_not_torn hm⟩, hhigh ▸ highPhase_nil _, fun _ => hlow, fun _ => rfl,
    fun hdown => Bool.noConfusion (hup'.symm.trans hdown)⟩

theorem TornInv.exec_high (hs : TornInv s) (hup : s.host.up = true) {i : Instr} {rest : List Instr}
    (hhigh : s.host.high = i :: rest) (h : exec i (s.withHost { s.host with high := rest }) = .next t) : TornInv t := by
  have hl := hs.up_live hup
  have hphase := hs.high
  rw [hhigh] at hphase
  obtain ⟨hrest, hi⟩ := hphase.cons
  have hlow : s.cfg.encMode = .fine → LowPhase t.cfg t.block s.host.low := by
    intro hm
    obtain rfl | ⟨hv, q, rfl⟩ := hi
    · exact LowPhase.exec_tick h (hs.low hl hm)
    · exact .inl ⟨hs.sweep_low hv, exec_loadp_next_not_torn h hm⟩
  have hlive := exec_next_live h hl
  obtain ⟨b, rfl⟩ := exec_next_withBlock h
  exact ⟨fun _ => hlow, hrest, hs.sweep_low, fun _ => hlive, fun hdown => Bool.noConfusion (hup.symm.trans hdown)⟩

theorem TornInv.exec_low (hs : TornInv s) (hup : s.host.up = true) {i : Instr} {rest : List Instr}
    (hlow : s.host.low = i :: rest) (h : exec i (s.withHost { s.host with low := rest }) = .next t) : TornInv t := by
  have hl := hs.up_live hup
  have hphase := hs.low hl
  rw [hlow] at hphase
  have hrest : s.cfg.encMode = .fine → LowPhase t.cfg t.block rest := fun hm => LowPhase.exec_cons h hm (hphase hm)
  have hlive := exec_next_live h hl
  have hsweep : s.cfg.hostVariant = .sweep → rest = [] := fun hv => nomatch hlow.symm.trans (hs.sweep_low hv)
  obtain ⟨b, rfl⟩ := exec_next_withBlock h
  exact ⟨fun _ => hrest, hs.high, hsweep, fun _ => hlive, fun hdown => Bool.noConfusion (hup.symm.trans hdown)⟩

theorem TornInv.takeEvent_high (hs : TornInv s) (hup : s.host.up = true) {p : Pick} {e : Event}
    (he : level s.cfg.hostVariant e = .high) : TornInv (takeEvent p e s) := by
  obtain ⟨hhigh, hlow⟩ := takeEvent_host_of_high (p := p) he
  have hup' := takeEvent_host_up p e s
  refine ⟨?_, ?_, ?_, ?_, ?_⟩
  · rw [hlow]
    exact hs.low
  · rw [hhigh]
    exact highPhase_handler he _
  · rw [hlow]
    exact hs.sweep_low
  · rw [hup']
    exact hs.up_live
  · rw [hup', hup]
    exact nofun

theorem TornInv.takeEvent_low (hs : TornInv s) (hup : s.host.up = true) (hidle : s.host.low = []) {p : Pick} {e : Event}
    (he : level s.cfg.hostVariant e = .low) : TornInv (takeEvent p e s) := by
  obtain ⟨hlow, hhigh⟩ := takeEvent_host_of_low (p := p) he
  obtain ⟨hv, q, hcmds⟩ := handler_of_level_low he p.highFirst
  have hup' := takeEvent_host_up p e s
  refine ⟨fun hl hm => ?_, ?_, fun h => ?_, ?_, ?_⟩
  · rw [hlow, hcmds]
    exact lowPhase_loadCommands (hidle ▸ hs.low hl hm).not_torn _ _ _
  · rw [hhigh]
    exact hs.high
  · exact nomatch hv.symm.trans h
  · rw [hup']
    exact hs.up_live
  · rw [hup', hup]
    exact nofun

theorem hostMove_keeps_tornInv {p : Pick} (hs : TornInv s) (h : hostMove p s = .next t) : TornInv t := by
  obtain ⟨hup, hm⟩ | ⟨hup, c, rest, hhigh, hm⟩ | ⟨hup, -, e, he, hm⟩ | ⟨hup, -, -, c, rest, hlow, hm⟩ |
    ⟨hup, -, -, hlow, e, he, hm⟩ | ⟨-, -, -, -, -, hm⟩ := hostMove_cases p s
  all_goals rw [hm] at h
  · exact hs.initializeAll_next hup h
  · exact hs.exec_high hup hhigh h
  · cases h
    exact hs.takeEvent_high hup (mem_waiting_iff.1 he).1
  · exact hs.exec_low hup hlow h
  · cases h
    exact hs.takeEvent_low hup hlow (mem_waiting_iff.1 he).1
  · cases h
    exact hs

/-- A step of the documented host is a move of the host or the arrival of an event, after the input is used up. -/
theorem HostDriven.step_cases (hd : HostDriven s) (h : step s = .next t) :
    ∃ rest, (∃ p, hostMove p (s.withInputs rest) = .next t) ∨ ∃ e, t = arrive e (s.withInputs rest) := by
  obtain ⟨-, ⟨-, h⟩ | ⟨i, rest, hi, h⟩⟩ := step_next_iff.1 h
  · exact ⟨s.inputs, .inl ⟨pickNow s, h⟩⟩
  · cases i with
    | port e => exact absurd hi (hd e rest)
    | event e =>
      cases h
      exact ⟨rest, .inr ⟨e, rfl⟩⟩
    | quiet => exact ⟨rest, .inl ⟨_, h⟩⟩

theorem step_keeps_tornInv (hs : TornInv s) (hd : HostDriven s) (h : step s = .next t) : TornInv t := by
  obtain ⟨rest, ⟨p, h⟩ | ⟨e, rfl⟩⟩ := hd.step_cases h
  · exact hostMove_keeps_tornInv (s := s.withInputs rest) (hs.congr rfl rfl rfl rfl rfl) h
  · exact hs.congr rfl rfl rfl rfl rfl

end

end Sys2Proof.Safety

namespace Sys2Proof.Proofs

open Sys2Proof.Machine Sys2Proof.Safety

/-- Settles O56: the host's moves keep the phases of both handlers, and with no LOW command left the phase is that of a whole pair. -/
theorem tornOnlyInsideSplitLoad : Obligations.TornOnlyInsideSplitLoad := by
  intro s t _ hs hd h
  have ht := step_keeps_tornInv hs hd h
  exact ⟨ht, fun hl hm hlow => (hlow ▸ ht.low hl hm).not_torn⟩

end Sys2Proof.Proofs
end

section
/-! PROOFS. The sweep host (42_host_sweep.md): the buttons and the tick in each state (R87, R88), the runs of the sweep controller (R90,
R92, R95), and the machine's steps that serve ticks (R93, R107). -/

namespace Sys2Proof.Machine

/-! ### The buttons -/

section
variable {w : Sweep}

theorem Sweep.onButtonA_of_stopped (hs : w.state = .stopped) :
    w.onButtonA = { w with speed := 10, dir := .up, state := .singleSweep } := by
  simp only [onButtonA, hs]

theorem Sweep.onButtonA_of_continuous (hs : w.state = .continuousSweep) :
    w.onButtonA = { w with state := .singleSweep } := by
  simp only [onButtonA, hs]

theorem Sweep.onButtonA_of_single (hs : w.state = .singleSweep) : w.onButtonA = w := by
  simp only [onButtonA, hs]

theorem Sweep.onButtonB_of_stopped (hs : w.state = .stopped) :
    w.onButtonB = { w with speed := 10, dir := .up, state := .continuousSweep } := by
  simp only [onButtonB, hs]

theorem Sweep.onButtonB_of_continuous (hs : w.state = .continuousSweep) :
    w.onButtonB = { w with speed := if w.speed = 10 then 5 else 10 } := by
  simp only [onButtonB, hs]

theorem Sweep.onButtonB_of_single (hs : w.state = .singleSweep) : w.onButtonB = w := by
  simp only [onButtonB, hs]

theorem Sweep.onButtonA_n (w : Sweep) : w.onButtonA.n = w.n := by
  unfold onButtonA
  split <;> rfl

theorem Sweep.onButtonB_n (w : Sweep) : w.onButtonB.n = w.n := by
  unfold onButtonB
  split <;> rfl

end

/-! ### One position step -/

theorem Direction.sign_eq_ite (d : Direction) : d.sign = if d = .up then 1 else -1 := by
  cases d <;> rfl

section
variable {w : Sweep} {p : Int}

theorem Sweep.positionStep_of_above (h : 31 < p + w.dir.sign) : w.positionStep p = ({ w with n := 0, dir := .down }, 31) := by
  simp only [positionStep, if_pos h]

theorem Sweep.positionStep_of_inside (hlo : -31 ≤ p + w.dir.sign) (hhi : p + w.dir.sign ≤ 31) :
    w.positionStep p = ({ w with n := 0 }, p + w.dir.sign) := by
  simp only [positionStep, if_neg (not_lt.2 hhi), if_neg (not_lt.2 hlo)]

theorem Sweep.positionStep_of_below (h : p + w.dir.sign < -31) :
    (w.state = .singleSweep → w.positionStep p = ({ w with n := 0, state := .stopped }, -31)) ∧
      (w.state = .continuousSweep → w.positionStep p = ({ w with n := 0, dir := .up }, -31)) := by
  have habove : ¬ 31 < p + w.dir.sign := by omega
  constructor
  all_goals
    intro hs
    simp only [positionStep, if_neg habove, if_pos h, hs]

/-- Whatever the state and the direction, the position that is loaded is the clamped sum (R88, R96(g)). -/
theorem Sweep.positionStep_load (w : Sweep) (p : Int) : (w.positionStep p).2 = clamp (p + w.dir.sign) (-31) 31 := by
  obtain habove | hinside := lt_or_ge 31 (p + w.dir.sign)
  · have hlow : ¬ p + w.dir.sign < -31 := by omega
    simp only [positionStep, clamp, if_pos habove, if_neg hlow]
  · obtain hbelow | hinside' := lt_or_ge (p + w.dir.sign) (-31)
    · simp only [positionStep, clamp, if_neg (not_lt.2 hinside), if_pos hbelow]
      cases w.state <;> rfl
    · rw [positionStep_of_inside hinside' hinside]
      simp only [clamp, if_neg (not_lt.2 hinside), if_neg (not_lt.2 hinside')]

theorem clamp_range {v lo hi : Int} (h : lo ≤ hi) : lo ≤ clamp v lo hi ∧ clamp v lo hi ≤ hi := by
  unfold clamp
  split
  · omega
  · split <;> omega

/-- A continuous sweep turns at the bounds and does not stop (R90). -/
theorem Sweep.positionStep_state_of_continuous (hs : w.state = .continuousSweep) :
    (w.positionStep p).1.state = .continuousSweep := by
  simp only [positionStep, hs]
  split
  · rfl
  · split <;> rfl

/-! ### One tick of the sweep controller -/

theorem Sweep.onTick_of_stopped (hs : w.state = .stopped) (p : Int) : w.onTick p = (w, none) := by
  simp only [onTick, hs]

theorem Sweep.onTick_of_counting (hs : w.state ≠ .stopped) (hn : w.n + 1 < w.speed) (p : Int) :
    w.onTick p = ({ w with n := w.n + 1 }, none) := by
  cases h : w.state with
  | stopped => exact absurd h hs
  | singleSweep => simp only [onTick, h, if_pos hn]
  | continuousSweep => simp only [onTick, h, if_pos hn]

theorem Sweep.onTick_of_qualifying (hs : w.state ≠ .stopped) (hn : w.speed ≤ w.n + 1) (p : Int) :
    w.onTick p = ((w.positionStep p).1, some (w.positionStep p).2) := by
  cases h : w.state with
  | stopped => exact absurd h hs
  | singleSweep => simp only [onTick, h, if_neg (not_lt.2 hn)]
  | continuousSweep => simp only [onTick, h, if_neg (not_lt.2 hn)]

/-- What a tick can do, said once: nothing, a count, or a position step. -/
theorem Sweep.onTick_cases (w : Sweep) (p : Int) :
    (w.state = .stopped ∧ w.onTick p = (w, none)) ∨
      (w.state ≠ .stopped ∧ w.onTick p = ({ w with n := w.n + 1 }, none)) ∨
      (w.state ≠ .stopped ∧ w.onTick p = ((w.positionStep p).1, some (w.positionStep p).2)) := by
  by_cases hs : w.state = .stopped
  · exact .inl ⟨hs, onTick_of_stopped hs p⟩
  · obtain hn | hn := lt_or_ge (w.n + 1) w.speed
    · exact .inr (.inl ⟨hs, onTick_of_counting hs hn p⟩)
    · exact .inr (.inr ⟨hs, onTick_of_qualifying hs hn p⟩)

theorem Sweep.onTick_load_range {q : Int} (h : (w.onTick p).2 = some q) : -31 ≤ q ∧ q ≤ 31 := by
  obtain ⟨-, e⟩ | ⟨-, e⟩ | ⟨-, e⟩ := w.onTick_cases p
  all_goals rw [e] at h
  · cases h
  · cases h
  · cases h
    rw [positionStep_load]
    exact clamp_range (by decide)

theorem Sweep.onTick_state_of_continuous (hs : w.state = .continuousSweep) : (w.onTick p).1.state = .continuousSweep := by
  obtain ⟨h, -⟩ | ⟨-, e⟩ | ⟨-, e⟩ := w.onTick_cases p
  · exact nomatch h.symm.trans hs
  · rw [e]
    exact hs
  · rw [e]
    exact positionStep_state_of_continuous hs

/-- No tick begins a single sweep (R88). -/
theorem Sweep.state_of_onTick_single (h : (w.onTick p).1.state = .singleSweep) : w.state = .singleSweep := by
  cases hs : w.state with
  | singleSweep => rfl
  | stopped =>
    rw [onTick_of_stopped hs] at h
    exact nomatch hs.symm.trans h
  | continuousSweep => exact nomatch (onTick_state_of_continuous hs).symm.trans h

/-! ### Runs of ticks -/

theorem Sweep.ticks_add (m k : Nat) (x : Sweep × Int) : Sweep.ticks (m + k) x = Sweep.ticks k (Sweep.ticks m x) := by
  induction m generalizing x with
  | zero => rw [Nat.zero_add, ticks]
  | succ m ih => rw [Nat.succ_add, ticks, ticks, ih]

theorem Sweep.ticks_of_counting {k : Nat} (hs : w.state ≠ .stopped) (hk : w.n + k < w.speed) :
    Sweep.ticks k (w, p) = ({ w with n := w.n + k }, p) := by
  induction k generalizing w with
  | zero => rfl
  | succ k ih =>
    rw [ticks, onTick_of_counting hs (by omega)]
    have h := ih (w := { w with n := w.n + 1 }) hs (by simp only; omega)
    rw [Nat.add_assoc, Nat.add_comm 1 k] at h
    exact h

/-- Ticks up to and with the qualifying one make the position step, which does not look at the counter. -/
theorem Sweep.ticks_to_positionStep {k : Nat} (hs : w.state ≠ .stopped) (hk : w.n + (k + 1) = w.speed) :
    Sweep.ticks (k + 1) (w, p) = w.positionStep p := by
  rw [ticks_add, ticks_of_counting hs (by omega), ticks, ticks,
    onTick_of_qualifying (w := { w with n := w.n + k }) hs (by simp only; omega)]
  rfl

theorem Sweep.ticks_speed (hs : w.state ≠ .stopped) (hn : w.n = 0) (hspeed : 0 < w.speed) :
    Sweep.ticks w.speed (w, p) = w.positionStep p := by
  obtain ⟨k, hk⟩ := Nat.exists_eq_succ_of_ne_zero hspeed.ne'
  rw [hk]
  exact ticks_to_positionStep hs (by omega)

/-- Inside the range every `speed` ticks move the position by one. -/
theorem Sweep.ticks_of_inside {j : Nat} {q : Int} (hs : w.state ≠ .stopped) (hn : w.n = 0) (hspeed : 0 < w.speed)
    (hq : q = p + j * w.dir.sign) (hp : -31 ≤ p ∧ p ≤ 31) (hlo : -31 ≤ q) (hhi : q ≤ 31) :
    Sweep.ticks (w.speed * j) (w, p) = (w, q) := by
  induction j generalizing q with
  | zero => simp [ticks, hq]
  | succ j ih =>
    have hprev : q - w.dir.sign = p + j * w.dir.sign := by rw [hq]; push_cast; ring
    have hrange : -31 ≤ q - w.dir.sign ∧ q - w.dir.sign ≤ 31 := by
      cases hd : w.dir with
      | up => simp only [hd, Direction.sign] at hprev ⊢; omega
      | down => simp only [hd, Direction.sign] at hprev ⊢; omega
    have hstep : w.positionStep (q - w.dir.sign) = ({ w with n := 0 }, q) := by
      have h := positionStep_of_inside (w := w) (p := q - w.dir.sign)
      rw [sub_add_cancel] at h
      exact h hlo hhi
    have hreset : { w with n := 0 } = w := by rw [← hn]
    rw [Nat.mul_succ, ticks_add, ih hprev hrange.1 hrange.2, ticks_speed hs hn hspeed, hstep, hreset]

theorem Sweep.state_of_ticks_single {k : Nat} {x : Sweep × Int} (h : (Sweep.ticks k x).1.state = .singleSweep) :
    x.1.state = .singleSweep := by
  induction k generalizing x with
  | zero => exact h
  | succ k ih => exact state_of_onTick_single (ih h)

end

/-! ### A single sweep from its start to its end -/

/-- Up to the positive bound, one step to turn there, and 62 steps down to the negative bound (R88, R92). -/
theorem Sweep.ticks_single_to_lower_bound {speed : Nat} {p : Int} (hspeed : 0 < speed) (hlo : -31 ≤ p) (hhi : p ≤ 31) :
    Sweep.ticks (speed * (94 - p).toNat) (⟨.singleSweep, speed, .up, 0⟩, p) = (⟨.singleSweep, speed, .down, 0⟩, -31) := by
  obtain ⟨j, hj⟩ : ∃ j : Nat, (j : Int) = 31 - p := ⟨(31 - p).toNat, by omega⟩
  have hsum : (94 - p).toNat = j + 1 + 62 := by omega
  have hup : Sweep.ticks (speed * j) (⟨.singleSweep, speed, .up, 0⟩, p) = (⟨.singleSweep, speed, .up, 0⟩, 31) :=
    ticks_of_inside (w := ⟨.singleSweep, speed, .up, 0⟩) nofun rfl hspeed (by simp only [Direction.sign]; omega) ⟨hlo, hhi⟩
      (by decide) (by decide)
  have hturn : Sweep.ticks speed (⟨.singleSweep, speed, .up, 0⟩, 31) = (⟨.singleSweep, speed, .down, 0⟩, 31) :=
    (ticks_speed (w := ⟨.singleSweep, speed, .up, 0⟩) nofun rfl hspeed).trans
      (positionStep_of_above (by decide : 31 < 31 + Direction.up.sign))
  have hdown : Sweep.ticks (speed * 62) (⟨.singleSweep, speed, .down, 0⟩, 31) = (⟨.singleSweep, speed, .down, 0⟩, -31) :=
    ticks_of_inside (w := ⟨.singleSweep, speed, .down, 0⟩) (j := 62) nofun rfl hspeed rfl (by decide) (by decide) (by decide)
  rw [hsum, Nat.mul_add, Nat.mul_succ, ticks_add, ticks_add, hup, hturn, hdown]

/-! ### The events of the sweep variant -/

theorem takeEvent_host_sweep (p : Pick) (e : Event) (s : State) :
    (takeEvent p e s).host.sweep = (handler p.highFirst s e).1 := HostState.start_sweep _ _ _

theorem takeEvent_host_pend (p : Pick) (e : Event) (s : State) :
    (takeEvent p e s).host.pend = s.host.pend.setCount e (s.host.pend.count e - 1) := HostState.start_pend _ _ _

theorem takeEvent_pend_count (p : Pick) (e e' : Event) (s : State) :
    (takeEvent p e s).host.pend.count e' = if e' = e then s.host.pend.count e - 1 else s.host.pend.count e' := by
  rw [takeEvent_host_pend, Pending.count_setCount]

theorem level_sweep (e : Event) : level .sweep e = .high := by cases e <;> rfl

theorem tickCommands_none (order : TickOrder) : tickCommands order none = [.tick] := by cases order <;> rfl

theorem tickCommands_some (order : TickOrder) (q : Int) :
    tickCommands order (some q) = if order = .controllerFirst then [.loadp q, .tick] else [.tick, .loadp q] := by
  cases order <;> rfl

section
variable {s : State} (hv : s.cfg.hostVariant = .sweep)
include hv

theorem handler_sweep_tick (highFirst : Bool) :
    handler highFirst s .tick =
      ((s.host.sweep.onTick s.block.pos.toInt).1,
        tickCommands s.cfg.tickOrder (s.host.sweep.onTick s.block.pos.toInt).2) := by
  simp only [handler, hv, posQ]

theorem handler_sweep_buttonA (highFirst : Bool) : handler highFirst s .buttonA = (s.host.sweep.onButtonA, []) := by
  simp only [handler, hv]

theorem handler_sweep_buttonB (highFirst : Bool) : handler highFirst s .buttonB = (s.host.sweep.onButtonB, []) := by
  simp only [handler, hv]

/-- Every event of the sweep variant is HIGH (R111). -/
theorem takeEvent_host_of_sweep (p : Pick) (e : Event) :
    (takeEvent p e s).host.high = (handler p.highFirst s e).2 ∧ (takeEvent p e s).host.low = s.host.low :=
  takeEvent_host_of_high (by rw [hv]; exact level_sweep e)

theorem takeEvent_sweep_tick {w : Sweep} {load : Option Int} (h : s.host.sweep.onTick s.block.pos.toInt = (w, load)) (p : Pick) :
    (takeEvent p .tick s).host.sweep = w ∧ (takeEvent p .tick s).host.high = tickCommands s.cfg.tickOrder load := by
  rw [takeEvent_host_sweep, (takeEvent_host_of_sweep hv p .tick).1, handler_sweep_tick hv, h]
  exact ⟨rfl, rfl⟩

end

/-! ### Commands do not look at the host -/

/-- TICK completes but for an out-of-range position where it is encoded (R61, R76). -/
theorem exec_tick_next_iff {s t : State} :
    exec .tick s = .next t ↔ s.cfg.Valid ∧ s.block.live = true ∧
      (s.cfg.encMode = .coarse → s.block.slot = 0 → s.cfg.InRange s.block.intPos) ∧
      t = s.withBlock (s.block.setOut (s.block.rendered s.cfg).1 (s.block.rendered s.cfg).2).advance := by
  constructor
  · intro h
    obtain ⟨hv, hl, -⟩ := inService_next_iff.1 h
    refine ⟨hv, hl, fun hm h0 => ?_, exec_tick_next h⟩
    by_contra hp
    exact nomatch (exec_tick_of_not_inRange hv hl hm h0 hp).symm.trans h
  · rintro ⟨hv, hl, hp, rfl⟩
    exact exec_tick_of_inRange hv hl hp

theorem exec_tick_withHost_of_next {s t : State} (h : exec .tick s = .next t) (g : HostState) :
    exec .tick (s.withHost g) = .next (t.withHost g) := by
  obtain ⟨hv, hl, hp, rfl⟩ := exec_tick_next_iff.1 h
  exact exec_tick_next_iff.2 ⟨hv, hl, hp, rfl⟩

/-- A command does the same over every host (R4). -/
theorem exec_withHost_of_next {i : Instr} {s t : State} (h : exec i s = .next t) (g : HostState) :
    exec i (s.withHost g) = .next (t.withHost g) := by
  obtain ⟨hv, ⟨rfl, rfl⟩ | ⟨hl, ⟨rfl, htick, hinit, hloadp, hsetpos, hfield⟩ | ⟨rfl, -⟩ | ⟨rfl, -⟩ | ⟨rfl, -⟩ |
    ⟨p, rfl, hp, hm, rfl⟩ | ⟨p, rfl, hp, hm, rfl⟩ | ⟨p, rfl, hp, rfl⟩ | ⟨rfl, hm, hp, rfl⟩ | ⟨rfl, hm, hp, rfl⟩⟩⟩ := exec_cases h
  · exact exec_init_next_iff.2 ⟨hv, rfl⟩
  · exact exec_of_no_effect (s := t.withHost g) hv hl htick hinit hloadp hsetpos hfield
  · exact exec_tick_withHost_of_next h g
  · exact exec_tick_withHost_of_next h g
  · exact exec_tick_withHost_of_next h g
  · exact (exec_loadp_coarse_next_iff (s := s.withHost g) hm).2 ⟨hv, hl, hp, rfl⟩
  · exact (exec_loadp_fine_next_iff (s := s.withHost g) hm).2 ⟨hv, hl, hp, rfl⟩
  · exact exec_setpos_next_iff.2 ⟨hv, hl, hp, rfl⟩
  · exact (exec_ench_fine_next_iff (s := s.withHost g) hm).2 ⟨hv, hl, hp, rfl⟩
  · exact (exec_encl_fine_next_iff (s := s.withHost g) hm).2 ⟨hv, hl, hp, rfl⟩

theorem execs_withHost_of_next {cs : List Instr} {s t : State} (h : execs cs s = .next t) (g : HostState) :
    execs cs (s.withHost g) = .next (t.withHost g) := by
  induction cs generalizing s with
  | nil =>
    cases h
    rfl
  | cons i is ih =>
    obtain ⟨u, hu, h⟩ := execs_cons_next_iff.1 h
    exact execs_cons_next_iff.2 ⟨_, exec_withHost_of_next hu g, ih h⟩

/-! ### Runs of the machine's steps -/

section
variable {M : Host.Core} {s u : M.State}

theorem run_succ_of_next (h : M.step s = .next u) (k : Nat) : M.run (k + 1) s = M.run k u := by
  simp only [Host.Core.run, h]

theorem run_succ_next_iff {k : Nat} : M.run (k + 1) s = .next u ↔ ∃ v, M.step s = .next v ∧ M.run k v = .next u := by
  rw [Host.Core.run]
  cases M.step s <;> simp

theorem run_add_of_next {m : Nat} (h : M.run m s = .next u) (k : Nat) : M.run (m + k) s = M.run k u := by
  induction m generalizing s with
  | zero =>
    cases h
    rw [Nat.zero_add]
  | succ m ih =>
    obtain ⟨v, hv, h⟩ := run_succ_next_iff.1 h
    rw [Nat.succ_add, run_succ_of_next hv, ih h]

end

section
variable {s : State} (hv : s.cfg.Valid) (hup : s.host.up = true) (hin : s.inputs = [])
include hv hup hin

/-- A HIGH handler in progress goes on (R110). -/
theorem step_of_high {i : Instr} {rest : List Instr} (hhigh : s.host.high = i :: rest) :
    step s = exec i (s.withHost { s.host with high := rest }) := by
  simp only [step, hin, configured_of_valid hv, onInput, hostMove, hup, hhigh, if_true]

/-- A HIGH event that waits alone at its level is taken (R110). -/
theorem step_of_waiting_high {e : Event} (hhigh : s.host.high = []) (hw : waiting s .high = [e]) :
    step s = .next (takeEvent (pickNow s) e s) := by
  simp only [step, hin, configured_of_valid hv, onInput, hostMove, hup, hhigh, hw, choose, if_true]

end

/-- A HIGH handler runs to its end, one command a step, and nothing is inserted into it (R110, R124). -/
theorem run_of_high {cs : List Instr} {s t : State} (hup : s.host.up = true) (hin : s.inputs = [])
    (hhigh : s.host.high = cs) (h : execs cs s = .next t) :
    core.run cs.length s = .next (t.withHost { s.host with high := [] }) := by
  induction cs generalizing s t with
  | nil =>
    cases h
    have hidle : { s.host with high := [] } = s.host := by rw [← hhigh]
    rw [hidle]
    rfl
  | cons i is ih =>
    obtain ⟨u, hu, h⟩ := execs_cons_next_iff.1 h
    have hv := (exec_cases hu).1
    obtain ⟨b, rfl⟩ := exec_next_withBlock hu
    have hstep := (step_of_high hv hup hin hhigh).trans (exec_withHost_of_next hu { s.host with high := is })
    exact (run_succ_of_next (M := core) hstep is.length).trans
      (ih (t := t.withHost { s.host with high := is }) hup hin rfl (execs_withHost_of_next h _))

end Sys2Proof.Machine

namespace Sys2Proof.Safety

open Sys2Proof.Machine

/-! ### What the tick's commands do to the block -/

/-- In a block that meets the invariant a run of TICK and in-range LOADP completes, whether its pair is whole or torn, and its position
is then the last one loaded. -/
theorem MachineInv.execs_ticksAndLoads {s : State} {cs : List Instr} (hs : MachineInv s) (hl : s.block.live = true)
    (hcs : TicksAndLoads s.cfg cs) :
    ∃ b, execs cs s = .next (s.withBlock b) ∧ MachineInv (s.withBlock b) ∧ b.live = true ∧
      b.pos.toInt = lastLoaded s.block.pos.toInt cs := by
  induction cs generalizing s with
  | nil => exact ⟨s.block, rfl, hs, hl, rfl⟩
  | cons i is ih =>
    obtain ⟨hi, his⟩ := List.forall_mem_cons.1 hcs
    have hfirst : ∃ b, exec i s = .next (s.withBlock b) ∧
        lastLoaded b.pos.toInt is = lastLoaded s.block.pos.toInt (i :: is) := by
      obtain rfl | ⟨q, rfl, hq⟩ := hi
      · exact ⟨_, exec_tick_of_inRange hs.valid hl fun _ _ => (hs.block hl).pos_inRange, rfl⟩
      · have hpos := congrArg (lastLoaded · is) (posOf_toInt hs.valid hq)
        cases hm : s.cfg.encMode with
        | coarse => exact ⟨_, exec_loadp_coarse hs.valid hl hm hq, hpos⟩
        | fine => exact ⟨_, exec_loadp_fine hs.valid hl hm hq, hpos⟩
    obtain ⟨b, hb, hpos⟩ := hfirst
    obtain ⟨b', hb', hinv, hl', hpos'⟩ := ih (s := s.withBlock b) (exec_keeps_machineInv hs hb) (exec_next_live hb hl) his
    exact ⟨b', execs_cons_next_iff.2 ⟨_, hb, hb'⟩, hinv, hl', hpos'.trans hpos⟩

/-- The tick of the sweep variant issues one TICK and at most one load, which is in range in every deployment (R7, R88). -/
theorem ticksAndLoads_tickCommands {c : Config} (hv : c.Valid) (order : TickOrder) (w : Sweep) (p : Int) :
    TicksAndLoads c (tickCommands order (w.onTick p).2) := by
  obtain ⟨hlimit, -⟩ := hv
  cases hload : (w.onTick p).2 with
  | none =>
    rw [tickCommands_none]
    exact List.forall_mem_singleton.2 (.inl rfl)
  | some q =>
    have hq := Sweep.onTick_load_range hload
    have hrange : c.InRange q := ⟨by omega, by omega⟩
    cases order with
    | controllerFirst =>
      exact List.forall_mem_cons.2 ⟨.inr ⟨q, rfl, hrange⟩, List.forall_mem_singleton.2 (.inl rfl)⟩
    | sequencerFirst =>
      exact List.forall_mem_cons.2 ⟨.inl rfl, List.forall_mem_singleton.2 (.inr ⟨q, rfl, hrange⟩)⟩

theorem tickCount_tickCommands (order : TickOrder) (load : Option Int) : tickCount (tickCommands order load) = 1 := by
  cases order <;> cases load <;> rfl

theorem lastLoaded_tickCommands (order : TickOrder) (load : Option Int) (p : Int) :
    lastLoaded p (tickCommands order load) = load.getD p := by
  cases order <;> cases load <;> rfl

/-! ### Ticks served by the machine -/

/-- The sweep variant's host at rest, with `k` ticks waiting and nothing else to come, over a block that meets the invariant. -/
structure AwaitsTicks (k : Nat) (s : State) : Prop where
  machine : MachineInv s
  live : s.block.live = true
  variant : s.cfg.hostVariant = .sweep
  up : s.host.up = true
  inputs : s.inputs = []
  high : s.host.high = []
  low : s.host.low = []
  pend : s.host.pend = ⟨k, 0, 0⟩

/-- `t` is `s` after one tick: what SweepTick, its load and one TICK leave of the registers. -/
structure TickServed (s t : State) : Prop where
  cfg : t.cfg = s.cfg
  sweep : t.host.sweep = (s.host.sweep.onTick s.block.pos.toInt).1
  pos : t.block.pos.toInt = (s.host.sweep.onTick s.block.pos.toInt).2.getD s.block.pos.toInt
  slot : t.block.slot.val = (s.block.slot.val + 1) % 10

section
variable {k : Nat} {s : State}

theorem AwaitsTicks.step_eq (h : AwaitsTicks (k + 1) s) : step s = .next (takeEvent (pickNow s) .tick s) := by
  have hw : waiting s .high = [.tick] := by simp [waiting, h.variant, level_sweep, h.pend, Pending.count]
  exact step_of_waiting_high h.machine.valid h.up h.inputs h.high hw

/-- One tick: it is taken, and its commands are executed. -/
theorem AwaitsTicks.run_tick (h : AwaitsTicks (k + 1) s) :
    ∃ t, core.run (1 + (tickCommands s.cfg.tickOrder (s.host.sweep.onTick s.block.pos.toInt).2).length) s = .next t ∧
      AwaitsTicks k t ∧ TickServed s t := by
  obtain ⟨hsweep, hhigh⟩ := takeEvent_sweep_tick h.variant (p := pickNow s)
    (Prod.mk.eta (p := s.host.sweep.onTick s.block.pos.toInt)).symm
  have hpend : (takeEvent (pickNow s) .tick s).host.pend = ⟨k, 0, 0⟩ := by
    rw [takeEvent_host_pend, h.pend]
    rfl
  have hlow := (takeEvent_host_of_sweep h.variant (pickNow s) .tick).2.trans h.low
  have hup := (takeEvent_host_up (pickNow s) .tick s).trans h.up
  have hcs := ticksAndLoads_tickCommands h.machine.valid s.cfg.tickOrder s.host.sweep s.block.pos.toInt
  have hmachine : MachineInv (takeEvent (pickNow s) .tick s) := h.machine.congr rfl rfl
  obtain ⟨b, hexecs, hinv, hl, hpos⟩ := hmachine.execs_ticksAndLoads h.live hcs
  have hslot := (execs_slot_pulseTicks hcs.ne_init hexecs).1
  rw [tickCount_tickCommands] at hslot
  rw [lastLoaded_tickCommands] at hpos
  refine ⟨((takeEvent (pickNow s) .tick s).withBlock b).withHost { (takeEvent (pickNow s) .tick s).host with high := [] },
    ?run, ⟨hinv.congr rfl rfl, hl, h.variant, hup, h.inputs, rfl, hlow, hpend⟩, ⟨rfl, hsweep, hpos, hslot⟩⟩
  case run =>
    rw [Nat.add_comm]
    exact (run_succ_of_next (M := core) h.step_eq _).trans (run_of_high hup h.inputs hhigh hexecs)

/-- `k` ticks, one after another. -/
theorem AwaitsTicks.run_ticks (h : AwaitsTicks k s) :
    ∃ n t, core.run n s = .next t ∧ AwaitsTicks 0 t ∧
      (t.host.sweep, t.block.pos.toInt) = Sweep.ticks k (s.host.sweep, s.block.pos.toInt) ∧
      t.block.slot.val = (s.block.slot.val + k) % 10 := by
  induction k generalizing s with
  | zero => exact ⟨0, s, rfl, h, rfl, (Nat.mod_eq_of_lt s.block.slot.isLt).symm⟩
  | succ k ih =>
    obtain ⟨u, hu, hwait, hserved⟩ := h.run_tick
    obtain ⟨n, t, ht, hrest, hticks, hslot⟩ := ih hwait
    refine ⟨_, t, (run_add_of_next (M := core) hu n).trans ht, hrest, ?ticks, ?slot⟩
    case ticks => rw [hticks, hserved.sweep, hserved.pos, Sweep.ticks]
    case slot =>
      rw [hslot, hserved.slot]
      omega

end

end Sys2Proof.Safety

namespace Sys2Proof.Proofs

open Sys2Proof.Machine Sys2Proof.Safety

/-- Settles O44: a tick is taken, its commands run to their end without looking at the host, and `k` ticks are `k` times this. -/
theorem sweepTicksServedBySteps : Obligations.SweepTicksServedBySteps := by
  constructor
  · intro k s hmachine hhost hvariant hup hin hhigh hlow hpend x
    have h : AwaitsTicks (k + 1) s := ⟨hmachine, hhost.up_live hup, hvariant, hup, hin, hhigh, hlow, hpend⟩
    obtain ⟨t, ht, hwait, hserved⟩ := h.run_tick
    exact ⟨t, ht, hserved.sweep, hserved.pos, hserved.slot, hwait.high, hwait.low, hwait.pend, hwait.up, hwait.inputs, hserved.cfg⟩
  · intro k s hmachine hhost hvariant hup hin hhigh hlow hpend
    have h : AwaitsTicks k s := ⟨hmachine, hhost.up_live hup, hvariant, hup, hin, hhigh, hlow, hpend⟩
    obtain ⟨n, t, ht, hwait, hticks, hslot⟩ := h.run_ticks
    exact ⟨n, t, ht, hticks, hslot, hwait.high, hwait.low, hwait.pend⟩

/-- Settles O42: the end is one position step below the negative bound, and no tick begins a single sweep, so that the sweep which is
single just before the end was so all along. -/
theorem singleSweepEndsAfterOneCycle : Obligations.SingleSweepEndsAfterOneCycle := by
  intro speed p hspeed hlo hhi
  have hpos : 0 < speed := by omega
  have htotal : speed * (95 - p).toNat = speed * (94 - p).toNat + speed := by
    rw [← Nat.mul_succ]
    congr 1
    omega
  have hbound := Sweep.ticks_single_to_lower_bound hpos hlo hhi
  rw [htotal]
  refine ⟨?ends, fun k hk => ?before⟩
  case ends =>
    rw [Sweep.ticks_add, hbound, Sweep.ticks_speed (w := ⟨.singleSweep, speed, .down, 0⟩) nofun rfl hpos]
    exact (Sweep.positionStep_of_below (by decide : (-31) + Direction.down.sign < -31)).1 rfl
  case before =>
    obtain ⟨m, hm⟩ : ∃ m, k + m = speed * (94 - p).toNat + (speed - 1) := ⟨_, Nat.add_sub_of_le (by omega)⟩
    apply Sweep.state_of_ticks_single (k := m)
    rw [← Sweep.ticks_add, hm, Sweep.ticks_add, hbound,
      Sweep.ticks_of_counting (w := ⟨.singleSweep, speed, .down, 0⟩) nofun (by simp only; omega)]

/-- Settles O41: the tick that makes the counter ten takes the step, and the ticks after it are fewer than ten and count only. -/
theorem buttonAThenTenTicksStepOnce : Obligations.ButtonAThenTenTicksStepOnce := by
  intro w p hs hn hlo hhi
  have hbutton : w.onButtonA = ⟨.singleSweep, 10, .up, w.n⟩ := Sweep.onButtonA_of_stopped hs
  have hten : 9 - w.n + 1 + w.n = 10 := by omega
  have hstep : Sweep.ticks (9 - w.n + 1) (⟨.singleSweep, 10, .up, w.n⟩, p) = (⟨.singleSweep, 10, .up, 0⟩, p + 1) :=
    (Sweep.ticks_to_positionStep (w := ⟨.singleSweep, 10, .up, w.n⟩) nofun (by simp only; omega)).trans
      (Sweep.positionStep_of_inside (by simp only [Direction.sign]; omega) (by simp only [Direction.sign]; omega))
  have hrun : Sweep.ticks 10 (w.onButtonA, p) = (⟨.singleSweep, 10, .up, 0 + w.n⟩, p + 1) := by
    calc Sweep.ticks 10 (w.onButtonA, p)
      _ = Sweep.ticks (9 - w.n + 1 + w.n) (⟨.singleSweep, 10, .up, w.n⟩, p) := by rw [hten, hbutton]
      _ = Sweep.ticks w.n (⟨.singleSweep, 10, .up, 0⟩, p + 1) := by rw [Sweep.ticks_add, hstep]
      _ = _ := Sweep.ticks_of_counting (w := ⟨.singleSweep, 10, .up, 0⟩) nofun (by simp only; omega)
  simp only [hrun, and_self]

/-- Settles O43: every tick keeps the state, and loads nothing or a clamped position. -/
theorem continuousSweepNeverStops : Obligations.ContinuousSweepNeverStops := by
  intro k w p hs hlo hhi
  induction k generalizing w p with
  | zero => exact ⟨hs, hlo, hhi⟩
  | succ k ih =>
    have hrange : -31 ≤ (w.onTick p).2.getD p ∧ (w.onTick p).2.getD p ≤ 31 := by
      cases hload : (w.onTick p).2 with
      | none => exact ⟨hlo, hhi⟩
      | some q => exact Sweep.onTick_load_range hload
    exact ih _ _ (Sweep.onTick_state_of_continuous hs) hrange.1 hrange.2

/-- Settles O39: the handler of a button is the case table on the sweep registers, with no command. -/
theorem sweepButtonEvents : Obligations.SweepButtonEvents := by
  intro p s e hv he w w'
  obtain ⟨hhigh, hlow⟩ := takeEvent_host_of_sweep hv p e
  have hw' : w' = (handler p.highFirst s e).1 := takeEvent_host_sweep p e s
  have hcount := fun e' => takeEvent_pend_count p e e' s
  have hframe : (takeEvent p e s).host.low = s.host.low ∧
      (takeEvent p e s).host.pend.count e = s.host.pend.count e - 1 ∧
      ∀ e', e' ≠ e → (takeEvent p e s).host.pend.count e' = s.host.pend.count e' :=
    ⟨hlow, (hcount e).trans (if_pos rfl), fun e' hne => (hcount e').trans (if_neg hne)⟩
  obtain rfl | rfl := he
  · rw [handler_sweep_buttonA hv] at hhigh hw'
    rw [hw', hhigh]
    exact ⟨fun hs _ => Sweep.onButtonA_of_stopped hs, nofun, fun hs _ => Sweep.onButtonA_of_continuous hs, nofun,
      Sweep.onButtonA_of_single, w.onButtonA_n, rfl, rfl, hframe⟩
  · rw [handler_sweep_buttonB hv] at hhigh hw'
    rw [hw', hhigh]
    exact ⟨nofun, fun hs _ => Sweep.onButtonB_of_stopped hs, nofun, fun hs _ => Sweep.onButtonB_of_continuous hs,
      Sweep.onButtonB_of_single, w.onButtonB_n, rfl, rfl, hframe⟩

/-- Settles O40: the tick's handler is SweepTick's registers and the commands of its load. -/
theorem sweepTickEvent : Obligations.SweepTickEvent := by
  intro p s hv w h q issues
  have hq : s.block.pos.toInt + w.dir.sign = q := by rw [Direction.sign_eq_ite]
  have hstep : ∀ {w' : Sweep} {v : Int}, w.state ≠ .stopped → w.speed ≤ w.n + 1 →
      w.positionStep s.block.pos.toInt = (w', v) → h.sweep = w' ∧ h.high = issues v := by
    intro w' v hs hn hstep
    have htick := takeEvent_sweep_tick hv (Sweep.onTick_of_qualifying (w := w) hs hn s.block.pos.toInt) p
    rw [hstep, tickCommands_some] at htick
    exact htick
  refine ⟨fun hs => ?stopped, fun hs hn => ?counting, fun hs hn hq' => hstep hs hn (Sweep.positionStep_of_above (hq ▸ hq')),
    fun hs hn hq' => hstep (hs ▸ nofun) hn ((Sweep.positionStep_of_below (hq ▸ hq')).1 hs),
    fun hs hn hq' => hstep (hs ▸ nofun) hn ((Sweep.positionStep_of_below (hq ▸ hq')).2 hs),
    fun hs hn hlo hhi => hstep hs hn (hq ▸ Sweep.positionStep_of_inside (hq ▸ hlo) (hq ▸ hhi))⟩
  case stopped =>
    have htick := takeEvent_sweep_tick hv (Sweep.onTick_of_stopped hs s.block.pos.toInt) p
    rwa [tickCommands_none] at htick
  case counting =>
    have htick := takeEvent_sweep_tick hv (Sweep.onTick_of_counting hs hn s.block.pos.toInt) p
    rwa [tickCommands_none] at htick

end Sys2Proof.Proofs
end

section
/-! PROOFS. The direct host (43_host_direct.md): `place` (R98), the handlers of the buttons and of the tick (R99 to R101), and repeated
moves (R103). -/

namespace Sys2Proof.Machine

/-! ### The events of the direct variant -/

section
variable {s : State} (hv : s.cfg.hostVariant = .direct)
include hv

theorem handler_direct_tick (highFirst : Bool) : handler highFirst s .tick = (s.host.sweep, [.tick]) := by
  simp only [handler, hv]

theorem handler_direct_button {e : Event} (he : e = .buttonA ∨ e = .buttonB) (highFirst : Bool) :
    handler highFirst s e = (s.host.sweep,
      moveCommands s.cfg.loadStyle highFirst s.block.pos.toInt (if e = .buttonA then 10 else -10)) := by
  obtain rfl | rfl := he
  · simp only [handler, hv, posQ, if_true]
  · simp only [handler, hv, posQ, reduceCtorEq, if_false]

/-- No handler of the direct variant touches the sweep controller's place (R97, log 24). -/
theorem takeEvent_host_sweep_of_direct (p : Pick) (e : Event) : (takeEvent p e s).host.sweep = s.host.sweep := by
  rw [takeEvent_host_sweep]
  cases e with
  | tick => rw [handler_direct_tick hv]
  | buttonA => rw [handler_direct_button hv (.inl rfl)]
  | buttonB => rw [handler_direct_button hv (.inr rfl)]

/-- A tick is HIGH and has no controller action (R100, R111). -/
theorem takeEvent_direct_tick (p : Pick) :
    (takeEvent p .tick s).host.high = [.tick] ∧ (takeEvent p .tick s).host.low = s.host.low := by
  obtain ⟨hhigh, hlow⟩ := takeEvent_host_of_high (p := p) (e := .tick) (s := s) (by rw [hv]; rfl)
  exact ⟨by rw [hhigh, handler_direct_tick hv], hlow⟩

/-- A button is LOW, and its handler is a move by 10 (R99, R111). -/
theorem takeEvent_direct_button {e : Event} (he : e = .buttonA ∨ e = .buttonB) (p : Pick) :
    (takeEvent p e s).host.low =
      moveCommands s.cfg.loadStyle p.highFirst s.block.pos.toInt (if e = .buttonA then 10 else -10) ∧
    (takeEvent p e s).host.high = s.host.high := by
  have hlevel : level s.cfg.hostVariant e = .low := by
    rw [hv]
    obtain rfl | rfl := he <;> rfl
  obtain ⟨hlow, hhigh⟩ := takeEvent_host_of_low (p := p) hlevel
  exact ⟨by rw [hlow, handler_direct_button hv he], hhigh⟩

end

/-! ### Repeated moves -/

theorem clamp_eq_max_min {v lo hi : Int} (h : lo ≤ hi) : clamp v lo hi = max lo (min v hi) := by
  unfold clamp
  split
  · omega
  · split <;> omega

/-- A value cut off at a bound may be cut off before a further addition, if this does not lead back into the range. -/
theorem clamp_clamp_add {v m lo hi : Int} (h : lo ≤ hi) (hup : hi < v → 0 ≤ m) (hdown : v < lo → m ≤ 0) :
    clamp (clamp v lo hi + m) lo hi = clamp (v + m) lo hi := by
  simp only [clamp_eq_max_min h]
  omega

theorem moveTarget_range (pos delta : Int) : -125 ≤ moveTarget pos delta ∧ moveTarget pos delta ≤ 125 :=
  clamp_range (by decide)

/-- Moves in one direction saturate once, at their exact sum (R99, R103). -/
theorem moves_eq_clamp (delta : Int) (k : Nat) {a : Int} (hlo : -125 ≤ a) (hhi : a ≤ 125) :
    moves delta k a = clamp (a + k * delta) (-125) 125 := by
  induction k generalizing a with
  | zero =>
    rw [moves, clamp_eq_max_min (by decide)]
    omega
  | succ k ih =>
    obtain ⟨hlo', hhi'⟩ := moveTarget_range a delta
    have hsum : a + ((k + 1 : Nat) : Int) * delta = a + delta + k * delta := by
      push_cast
      ring
    have hup : 125 < a + delta → 0 ≤ k * delta := fun h => mul_nonneg (Int.natCast_nonneg k) (by omega)
    have hdown : a + delta < -125 → k * delta ≤ 0 := fun h =>
      mul_nonpos_of_nonneg_of_nonpos (Int.natCast_nonneg k) (by omega)
    rw [moves, ih hlo' hhi', moveTarget, clamp_clamp_add (by decide) hup hdown, hsum]

end Sys2Proof.Machine

namespace Sys2Proof.Proofs

open Sys2Proof.Machine Sys2Proof.Safety

/-- Settles O46: the moves saturate at one bound only, since they never lead towards the other. -/
theorem repeatedMovesSaturate : Obligations.RepeatedMovesSaturate := by
  intro d k a hlo hhi
  have hnonneg : (0 : Int) ≤ k * d := mul_nonneg (Int.natCast_nonneg k) (Int.natCast_nonneg d)
  rw [moves_eq_clamp d k hlo hhi, moves_eq_clamp (-d) k hlo hhi, mul_neg]
  simp only [clamp_eq_max_min (show (-125 : Int) ≤ 125 by decide)]
  omega

/-- Settles O45: a button's handler is a move by 10 in the deployment's style, and the tick's is TICK. -/
theorem directButtonEvents : Obligations.DirectButtonEvents := by
  intro p s hv
  obtain ⟨hhigh, hlow⟩ := takeEvent_direct_tick hv p
  refine ⟨?button, fun e => ?count, hhigh, hlow, takeEvent_host_sweep_of_direct hv p .tick,
    takeEvent_block p .tick s⟩
  case button =>
    intro e he sum q h
    obtain ⟨hmove, hhigh⟩ := takeEvent_direct_button hv he p
    have hload : h.low = loadCommands s.cfg.loadStyle p.highFirst q := hmove
    exact ⟨fun hs => by rw [hload, hs, loadCommands], fun hs hf => by rw [hload, hs, hf, loadCommands, if_pos rfl],
      fun hs hf => by rw [hload, hs, hf, loadCommands, if_neg Bool.false_ne_true], hhigh,
      takeEvent_host_sweep_of_direct hv p e, takeEvent_block p e s⟩
  case count =>
    have hcount := fun e' => takeEvent_pend_count p e e' s
    exact ⟨(hcount e).trans (if_pos rfl), fun e' hne => (hcount e').trans (if_neg hne)⟩

/-- Settles O47: `place` is one LOADP, which encodes an in-range position exactly and refuses every other. -/
theorem placeLoadsWithoutClamp : Obligations.PlaceLoadsWithoutClamp := by
  rintro s p ⟨hv, hl⟩ hm
  refine ⟨fun hp => ⟨_, execs_cons_next_iff.2 ⟨_, exec_loadp_fine hv hl hm hp, rfl⟩, posOf_toInt hv hp, ?fields⟩,
    fun hp => execs_cons_of_refused (exec_loadp_of_not_inRange hv hl hp) []⟩
  case fields =>
    rw [← (dutyNat_fine hv hm hp).1, Int.toNat_natCast]
    rfl

end Sys2Proof.Proofs
end

section
/-! PROOFS. The host's discipline (44_host_dispatcher.md R116): the documented handlers issue commands within the block's contract, the
sweep controller's registers stay legal (R96), and so every step of the documented host completes. -/

namespace Sys2Proof.Machine

/-! ### The start of the host -/

theorem initializeAll_of_valid {s : State} (hv : s.cfg.Valid) :
    initializeAll s = .next ((s.withHost (s.host.initialized s.cfg.hostVariant)).withBlock (resetBlock s.cfg)) :=
  exec_init_next_iff.2 ⟨hv, rfl⟩

/-- What the host's start leaves of its state as it is (R106, log 4). -/
theorem HostState.initialized_frame (h : HostState) (v : HostVariant) :
    (h.initialized v).pend = h.pend ∧ (h.initialized v).high = h.high ∧ (h.initialized v).low = h.low ∧
      (h.initialized v).sweep.speed = h.sweep.speed ∧ (h.initialized v).sweep.dir = h.sweep.dir := by
  cases v <;> exact ⟨rfl, rfl, rfl, rfl, rfl⟩

theorem HostState.initialized_up (h : HostState) (v : HostVariant) : (h.initialized v).up = true := by
  cases v <;> rfl

/-! ### One position step of the sweep controller -/

/-- A position step clears the counter and keeps the speed (R88). -/
theorem Sweep.positionStep_n_speed (w : Sweep) (p : Int) :
    (w.positionStep p).1.n = 0 ∧ (w.positionStep p).1.speed = w.speed := by
  obtain habove | hinside := lt_or_ge 31 (p + w.dir.sign)
  · rw [positionStep_of_above habove]
    exact ⟨rfl, rfl⟩
  · obtain hbelow | hinside' := lt_or_ge (p + w.dir.sign) (-31)
    · simp only [positionStep, if_neg (not_lt.2 hinside), if_pos hbelow]
      cases w.state <;> exact ⟨rfl, rfl⟩
    · rw [positionStep_of_inside hinside' hinside]
      exact ⟨rfl, rfl⟩

end Sys2Proof.Machine

namespace Sys2Proof.Safety

open Sys2Proof.Machine

/-! ### The sweep controller's registers stay legal -/

section
variable {w : Sweep} (h : SweepInv w)
include h

theorem SweepInv.onButtonA : SweepInv w.onButtonA := by
  cases hs : w.state with
  | stopped =>
    rw [Sweep.onButtonA_of_stopped hs]
    exact ⟨.inl rfl, h.count, nofun⟩
  | singleSweep => rwa [Sweep.onButtonA_of_single hs]
  | continuousSweep =>
    rw [Sweep.onButtonA_of_continuous hs]
    exact ⟨h.speed, h.count, nofun⟩

theorem SweepInv.onButtonB : SweepInv w.onButtonB := by
  cases hs : w.state with
  | stopped =>
    rw [Sweep.onButtonB_of_stopped hs]
    exact ⟨.inl rfl, h.count, nofun⟩
  | singleSweep => rwa [Sweep.onButtonB_of_single hs]
  | continuousSweep =>
    have hspeed : (if w.speed = 10 then 5 else 10) = 10 ∨ (if w.speed = 10 then 5 else 10) = 5 := by
      split
      · exact .inr rfl
      · exact .inl rfl
    rw [Sweep.onButtonB_of_continuous hs]
    exact ⟨hspeed, h.count, h.stopped⟩

theorem SweepInv.positionStep (p : Int) : SweepInv (w.positionStep p).1 := by
  obtain ⟨hn, hspeed⟩ := w.positionStep_n_speed p
  exact ⟨hspeed ▸ h.speed, by omega, fun _ => hn⟩

/-- Below the speed a tick counts, and at the speed the position step clears the counter (R88, R96). -/
theorem SweepInv.onTick (p : Int) : SweepInv (w.onTick p).1 := by
  by_cases hs : w.state = .stopped
  · rwa [Sweep.onTick_of_stopped hs]
  · obtain hn | hn := lt_or_ge (w.n + 1) w.speed
    · rw [Sweep.onTick_of_counting hs hn]
      have hspeed := h.speed
      exact ⟨hspeed, by simp only; omega, fun hstop => absurd hstop hs⟩
    · rw [Sweep.onTick_of_qualifying hs hn]
      exact h.positionStep p

end

theorem SweepInv.handler {s : State} (h : SweepInv s.host.sweep) (highFirst : Bool) (e : Event) :
    SweepInv (handler highFirst s e).1 := by
  cases hv : s.cfg.hostVariant with
  | sweep =>
    cases e with
    | tick =>
      rw [handler_sweep_tick hv]
      exact h.onTick _
    | buttonA =>
      rw [handler_sweep_buttonA hv]
      exact h.onButtonA
    | buttonB =>
      rw [handler_sweep_buttonB hv]
      exact h.onButtonB
  | direct =>
    cases e with
    | tick => rwa [handler_direct_tick hv]
    | buttonA => rwa [handler_direct_button hv (.inl rfl)]
    | buttonB => rwa [handler_direct_button hv (.inr rfl)]

theorem SweepInv.initialized {h : HostState} (hw : SweepInv h.sweep) (v : HostVariant) : SweepInv (h.initialized v).sweep := by
  cases v with
  | sweep => exact ⟨hw.speed, Nat.zero_lt_succ 9, fun _ => rfl⟩
  | direct => exact hw

/-! ### The commands of the handlers -/

theorem HostCommand.ne_init {c : Config} {i : Instr} (h : HostCommand c i) : i ≠ .init := by
  rintro rfl
  exact h

theorem TicksAndLoads.hostCommand {c : Config} {cs : List Instr} (h : TicksAndLoads c cs) : ∀ i ∈ cs, HostCommand c i := by
  intro i hi
  obtain rfl | ⟨q, rfl, hq⟩ := h i hi
  · trivial
  · exact hq

theorem hostCommand_loadCommands {c : Config} {q : Int} (hq : c.InRange q) (style : LoadStyle) (highFirst : Bool) :
    ∀ i ∈ loadCommands style highFirst q, HostCommand c i := by
  cases style with
  | atomic => exact List.forall_mem_singleton.2 hq
  | split =>
    cases highFirst <;>
      exact List.forall_mem_cons.2 ⟨hq, List.forall_mem_cons.2 ⟨trivial, List.forall_mem_singleton.2 trivial⟩⟩

/-- A documented handler issues host commands alone, under any parameters whose range holds the controller's (R88, R99, R116). -/
theorem hostCommand_handler {c : Config} {s : State} (hc : c.Valid) (hlimit : s.cfg.hostVariant = .direct → c.posLimit = 125)
    (highFirst : Bool) (e : Event) : ∀ i ∈ (handler highFirst s e).2, HostCommand c i := by
  cases hv : s.cfg.hostVariant with
  | sweep =>
    cases e with
    | tick =>
      rw [handler_sweep_tick hv]
      exact (ticksAndLoads_tickCommands hc _ _ _).hostCommand
    | buttonA =>
      rw [handler_sweep_buttonA hv]
      exact nofun
    | buttonB =>
      rw [handler_sweep_buttonB hv]
      exact nofun
  | direct =>
    have hmove : ∀ delta, c.InRange (moveTarget s.block.pos.toInt delta) := fun delta => by
      rw [Config.InRange, hlimit hv]
      exact moveTarget_range _ delta
    cases e with
    | tick =>
      rw [handler_direct_tick hv]
      exact List.forall_mem_singleton.2 trivial
    | buttonA =>
      rw [handler_direct_button hv (.inl rfl)]
      exact hostCommand_loadCommands (hmove _) _ _
    | buttonB =>
      rw [handler_direct_button hv (.inr rfl)]
      exact hostCommand_loadCommands (hmove _) _ _

/-- A host command completes in a block that meets its invariant: its operand, or the position it encodes, is in range (R76, R116). -/
theorem HostCommand.exec_goesOn {s : State} {i : Instr} (hi : HostCommand s.cfg i) (hs : MachineInv s)
    (hl : s.block.live = true) : GoesOn (exec i s) := by
  have hv := hs.valid
  have hp := (hs.block hl).pos_inRange
  cases i
  case tick => exact ⟨_, exec_tick_of_inRange hv hl fun _ _ => hp⟩
  case loadp p =>
    cases hm : s.cfg.encMode with
    | coarse => exact ⟨_, exec_loadp_coarse hv hl hm hi⟩
    | fine => exact ⟨_, exec_loadp_fine hv hl hm hi⟩
  case setpos p => exact ⟨_, exec_setpos hv hl hi⟩
  case ench =>
    cases hm : s.cfg.encMode with
    | coarse => exact ⟨_, exec_ench_coarse hv hl hm⟩
    | fine => exact ⟨_, exec_ench_fine hv hl hm rfl hp⟩
  case encl =>
    cases hm : s.cfg.encMode with
    | coarse => exact ⟨_, exec_encl_coarse hv hl hm⟩
    | fine => exact ⟨_, exec_encl_fine hv hl hm rfl hp⟩
  all_goals exact hi.elim

/-! ### The host's moves complete and keep its discipline -/

section
variable {s t : State}

theorem HostInv.exec_next (hs : HostInv s) {i : Instr} (h : exec i s = .next t) : HostInv t := by
  have hlive := fun hup => exec_next_live h (hs.up_live hup)
  obtain ⟨b, rfl⟩ := exec_next_withBlock h
  exact { hs with up_live := hlive }

/-- The rest of a HIGH handler after its next command. -/
theorem HostInv.high_cons (hs : HostInv s) {i : Instr} {rest : List Instr} (hhigh : s.host.high = i :: rest) :
    HostCommand s.cfg i ∧ HostInv (s.withHost { s.host with high := rest }) := by
  obtain ⟨hi, hrest⟩ := List.forall_mem_cons.1 (hhigh ▸ hs.high)
  exact ⟨hi, { hs with high := hrest, down_idle := fun hdown => nomatch hhigh.symm.trans (hs.down_idle hdown).1 }⟩

/-- The rest of a LOW handler after its next command. -/
theorem HostInv.low_cons (hs : HostInv s) {i : Instr} {rest : List Instr} (hlow : s.host.low = i :: rest) :
    HostCommand s.cfg i ∧ HostInv (s.withHost { s.host with low := rest }) := by
  obtain ⟨hi, hrest⟩ := List.forall_mem_cons.1 (hlow ▸ hs.low)
  exact ⟨hi, { hs with low := hrest, down_idle := fun hdown => nomatch hlow.symm.trans (hs.down_idle hdown).2 }⟩

theorem HostInv.takeEvent (hs : HostInv s) (hv : s.cfg.Valid) (hpair : Paired s.cfg) (hup : s.host.up = true) (p : Pick)
    (e : Event) : HostInv (takeEvent p e s) := by
  have hcmds := hostCommand_handler hv hpair p.highFirst e
  have hup' := (takeEvent_host_up p e s).trans hup
  have hhandlers : (∀ i ∈ (Machine.takeEvent p e s).host.high, HostCommand s.cfg i) ∧
      ∀ i ∈ (Machine.takeEvent p e s).host.low, HostCommand s.cfg i := by
    cases hlevel : level s.cfg.hostVariant e with
    | high =>
      obtain ⟨hhigh, hlow⟩ := takeEvent_host_of_high (p := p) hlevel
      exact ⟨hhigh ▸ hcmds, hlow ▸ hs.low⟩
    | low =>
      obtain ⟨hlow, hhigh⟩ := takeEvent_host_of_low (p := p) hlevel
      exact ⟨hhigh ▸ hs.high, hlow ▸ hcmds⟩
  exact ⟨hhandlers.1, hhandlers.2, takeEvent_host_sweep p e s ▸ hs.sweep.handler p.highFirst e, fun _ => hs.up_live hup,
    fun hdown => Bool.noConfusion (hup'.symm.trans hdown)⟩

theorem HostInv.initialized (hs : HostInv s) (hdown : s.host.up = false) :
    HostInv ((s.withHost (s.host.initialized s.cfg.hostVariant)).withBlock (resetBlock s.cfg)) := by
  obtain ⟨hup, hhigh, hlow⟩ := s.host.initialized_of_idle s.cfg.hostVariant (hs.down_idle hdown)
  exact ⟨hhigh ▸ nofun, hlow ▸ nofun, hs.sweep.initialized _, fun _ => rfl, fun _ => ⟨hhigh, hlow⟩⟩

/-- A command of a handler in progress completes and keeps the invariant, over the handler's rest. -/
theorem HostInv.exec_completes (hs : HostInv s) (hmachine : MachineInv s) (hl : s.block.live = true) {i : Instr}
    (hi : HostCommand s.cfg i) : ∃ t, exec i s = .next t ∧ HostInv t := by
  obtain ⟨t, ht⟩ := hi.exec_goesOn hmachine hl
  exact ⟨t, ht, hs.exec_next ht⟩

theorem HostInv.hostMove_completes (hs : HostInv s) (hmachine : MachineInv s) (hpair : Paired s.cfg) (p : Pick) :
    ∃ t, hostMove p s = .next t ∧ HostInv t := by
  have hv := hmachine.valid
  obtain ⟨hdown, hm⟩ | ⟨hup, c, rest, hhigh, hm⟩ | ⟨hup, -, e, -, hm⟩ | ⟨hup, -, -, c, rest, hlow, hm⟩ |
    ⟨hup, -, -, -, e, -, hm⟩ | ⟨-, -, -, -, -, hm⟩ := hostMove_cases p s
  all_goals rw [hm]
  · exact ⟨_, initializeAll_of_valid hv, hs.initialized hdown⟩
  · obtain ⟨hc, hrest⟩ := hs.high_cons hhigh
    exact hrest.exec_completes (hmachine.congr rfl rfl) (hs.up_live hup) hc
  · exact ⟨_, rfl, hs.takeEvent hv hpair hup p e⟩
  · obtain ⟨hc, hrest⟩ := hs.low_cons hlow
    exact hrest.exec_completes (hmachine.congr rfl rfl) (hs.up_live hup) hc
  · exact ⟨_, rfl, hs.takeEvent hv hpair hup p e⟩
  · exact ⟨_, rfl, hs⟩

theorem HostInv.withInputs (hs : HostInv s) (is : List Input) : HostInv (s.withInputs is) := { hs with }

theorem HostInv.arrive (hs : HostInv s) (e : Event) : HostInv (arrive e s) := { hs with }

theorem HostInv.step_completes (hs : HostInv s) (hmachine : MachineInv s) (hpair : Paired s.cfg) (hd : HostDriven s) :
    ∃ t, step s = .next t ∧ HostInv t := by
  have hv := hmachine.valid
  cases hin : s.inputs with
  | nil =>
    obtain ⟨t, ht, hinv⟩ := hs.hostMove_completes hmachine hpair (pickNow s)
    exact ⟨t, step_next_iff.2 ⟨hv, .inl ⟨hin, ht⟩⟩, hinv⟩
  | cons i rest =>
    suffices h : ∃ t, onInput i (s.withInputs rest) = .next t ∧ HostInv t by
      obtain ⟨t, ht, hinv⟩ := h
      exact ⟨t, step_next_iff.2 ⟨hv, .inr ⟨i, rest, hin, ht⟩⟩, hinv⟩
    have hrest := hs.withInputs rest
    cases i with
    | port e => exact absurd hin (hd e rest)
    | event e => exact ⟨_, rfl, hrest.arrive e⟩
    | quiet => exact hrest.hostMove_completes (hmachine.congr rfl rfl) hpair _

end

end Sys2Proof.Safety

namespace Sys2Proof.Proofs

open Sys2Proof.Machine Sys2Proof.Safety

/-- Settles O55: every command that a handler has still to issue is one that the block completes, and every move of the host keeps
this. -/
theorem documentedHostNeverRefused : Obligations.DocumentedHostNeverRefused := by
  intro s hmachine hs hpair hd
  obtain ⟨t, ht, hinv⟩ := hs.step_completes hmachine hpair hd
  exact ⟨t, ht, step_keeps_machineInv hmachine ht, hinv, (step_next_cfg ht).symm ▸ hpair⟩

end Sys2Proof.Proofs
end

section
/-! PROOFS. The event dispatcher (44_host_dispatcher.md): the host's moves in their order of priority (R110, R113), events that arrive
and are taken (R107, R111, R112), the host's start (R106), and the backlog that is served to its end (R110, R124). -/

namespace Sys2Proof.Machine

/-! ### The host's moves in their order of priority -/

theorem waiting_eq_nil_iff {s : State} {l : Level} :
    waiting s l = [] ↔ ∀ e, level s.cfg.hostVariant e = l → s.host.pend.count e = 0 := by
  simp only [List.eq_nil_iff_forall_not_mem, mem_waiting_iff, not_and, Nat.pos_iff_ne_zero, not_not]

theorem waiting_ne_nil_iff {s : State} {l : Level} :
    waiting s l ≠ [] ↔ ∃ e, level s.cfg.hostVariant e = l ∧ 0 < s.host.pend.count e := by
  simp only [ne_eq, List.eq_nil_iff_forall_not_mem, mem_waiting_iff, not_forall, not_not]

theorem waiting_eq_nil_of_count_zero {s : State} (h : ∀ e, s.host.pend.count e = 0) (l : Level) : waiting s l = [] :=
  waiting_eq_nil_iff.2 fun e _ => h e

/-- With nothing arriving a step is the host's move. -/
theorem step_of_no_inputs {s : State} (hv : s.cfg.Valid) (hin : s.inputs = []) : step s = hostMove (pickNow s) s := by
  simp only [step, hin, configured_of_valid hv, onInput]

theorem hostMove_of_down {s : State} (hdown : s.host.up = false) (p : Pick) : hostMove p s = initializeAll s := by
  simp only [hostMove, hdown, Bool.false_eq_true, if_false]

section
variable {s : State} (hup : s.host.up = true) (hhigh : s.host.high = []) (p : Pick)
include hup hhigh

/-- A waiting HIGH event is taken before a LOW command. -/
theorem hostMove_of_waiting_high (hw : waiting s .high ≠ []) :
    ∃ e ∈ waiting s .high, hostMove p s = .next (takeEvent p e s) := by
  obtain ⟨e, es, hw⟩ := List.exists_cons_of_ne_nil hw
  exact ⟨choose p.event e es, hw ▸ choose_mem p.event e es, by simp only [hostMove, hup, hhigh, hw, if_true]⟩

section
variable (hw : waiting s .high = [])
include hw

theorem hostMove_of_low {i : Instr} {rest : List Instr} (hlow : s.host.low = i :: rest) :
    hostMove p s = exec i (s.withHost { s.host with low := rest }) := by
  simp only [hostMove, hup, hhigh, hw, hlow, if_true]

theorem hostMove_of_waiting_low (hlow : s.host.low = []) (hwl : waiting s .low ≠ []) :
    ∃ e ∈ waiting s .low, hostMove p s = .next (takeEvent p e s) := by
  obtain ⟨e, es, hwl⟩ := List.exists_cons_of_ne_nil hwl
  exact ⟨choose p.event e es, hwl ▸ choose_mem p.event e es, by simp only [hostMove, hup, hhigh, hw, hlow, hwl, if_true]⟩

theorem hostMove_of_idle (hlow : s.host.low = []) (hwl : waiting s .low = []) : hostMove p s = .next s := by
  simp only [hostMove, hup, hhigh, hw, hlow, hwl, if_true]

end

end

/-! ### What a host's move leaves of the inputs and of `up` -/

/-- A move uses up no input, and after it the host is up. -/
theorem hostMove_next_frame {p : Pick} {s t : State} (h : hostMove p s = .next t) :
    t.inputs = s.inputs ∧ t.host.up = true := by
  obtain ⟨-, hm⟩ | ⟨hup, c, rest, -, hm⟩ | ⟨hup, -, e, -, hm⟩ | ⟨hup, -, -, c, rest, -, hm⟩ | ⟨hup, -, -, -, e, -, hm⟩ |
    ⟨hup, -, -, -, -, hm⟩ := hostMove_cases p s
  all_goals rw [hm] at h
  · obtain ⟨b, rfl⟩ := exec_next_withBlock h
    exact ⟨rfl, HostState.initialized_up _ _⟩
  · obtain ⟨b, rfl⟩ := exec_next_withBlock h
    exact ⟨rfl, hup⟩
  · cases h
    exact ⟨rfl, (takeEvent_host_up p e s).trans hup⟩
  · obtain ⟨b, rfl⟩ := exec_next_withBlock h
    exact ⟨rfl, hup⟩
  · cases h
    exact ⟨rfl, (takeEvent_host_up p e s).trans hup⟩
  · cases h
    exact ⟨rfl, hup⟩

/-- A host that is up stays up (R106). -/
theorem step_next_up {s t : State} (hup : s.host.up = true) (h : step s = .next t) : t.host.up = true := by
  obtain ⟨-, ⟨-, h⟩ | ⟨i, rest, -, h⟩⟩ := step_next_iff.1 h
  · exact (hostMove_next_frame h).2
  · cases i with
    | port e =>
      obtain ⟨b, rfl⟩ := onEdge_next_withBlock h
      exact hup
    | event e =>
      cases h
      exact hup
    | quiet => exact (hostMove_next_frame h).2

/-! ### An event's arrival -/

theorem step_of_event {s : State} {e : Event} {rest : List Input} (hv : s.cfg.Valid) (h : s.inputs = .event e :: rest) :
    step s = .next (arrive e (s.withInputs rest)) :=
  step_next_iff.2 ⟨hv, .inr ⟨_, rest, h, rfl⟩⟩

theorem arrive_pend_count (e e' : Event) (s : State) :
    (arrive e s).host.pend.count e' =
      if e' = e then kept s.cfg.pendLimit (s.host.masked (level s.cfg.hostVariant e)) (s.host.pend.count e)
      else s.host.pend.count e' := by
  rw [arrive_host, Pending.count_setCount]

theorem HostState.masked_high_iff (h : HostState) : h.masked .high = true ↔ h.up = false ∨ h.high ≠ [] := by
  simp [masked]

theorem HostState.masked_low_iff (h : HostState) : h.masked .low = true ↔ h.up = false ∨ h.high ≠ [] ∨ h.low ≠ [] := by
  simp [masked, or_assoc]

/-! ### The backlog -/

theorem tickCommands_length_le (order : TickOrder) (load : Option Int) : (tickCommands order load).length ≤ 3 := by
  cases order <;> cases load <;> simp [tickCommands]

theorem moveCommands_length_le (style : LoadStyle) (highFirst : Bool) (pos delta : Int) :
    (moveCommands style highFirst pos delta).length ≤ 3 := by
  cases style <;> cases highFirst <;> simp [moveCommands, loadCommands]

theorem handler_length_le (highFirst : Bool) (s : State) (e : Event) : (handler highFirst s e).2.length ≤ 3 := by
  cases hv : s.cfg.hostVariant with
  | sweep =>
    cases e with
    | tick => exact handler_sweep_tick hv highFirst ▸ tickCommands_length_le _ _
    | buttonA => exact handler_sweep_buttonA hv highFirst ▸ Nat.zero_le 3
    | buttonB => exact handler_sweep_buttonB hv highFirst ▸ Nat.zero_le 3
  | direct =>
    cases e with
    | tick => exact handler_direct_tick hv highFirst ▸ (by decide : [Instr.tick].length ≤ 3)
    | buttonA => exact handler_direct_button hv (.inl rfl) highFirst ▸ moveCommands_length_le _ _ _ _
    | buttonB => exact handler_direct_button hv (.inr rfl) highFirst ▸ moveCommands_length_le _ _ _ _

/-- Taking an event leaves one fewer of all that wait. -/
theorem Pending.total_setCount_pred {p : Pending} {e : Event} (h : 0 < p.count e) :
    (p.setCount e (p.count e - 1)).tick + (p.setCount e (p.count e - 1)).buttonA + (p.setCount e (p.count e - 1)).buttonB + 1 =
      p.tick + p.buttonA + p.buttonB := by
  cases e <;> simp only [setCount, count] at h ⊢ <;> omega

end Sys2Proof.Machine

namespace Sys2Proof.Safety

open Sys2Proof.Machine

theorem backlog_eq_zero_iff {s : State} :
    backlog s = 0 ↔ s.host.high = [] ∧ s.host.low = [] ∧ ∀ e, s.host.pend.count e = 0 := by
  have hcount : (∀ e, s.host.pend.count e = 0) ↔ s.host.pend.tick = 0 ∧ s.host.pend.buttonA = 0 ∧ s.host.pend.buttonB = 0 :=
    ⟨fun h => ⟨h .tick, h .buttonA, h .buttonB⟩, fun ⟨ht, ha, hb⟩ e => by cases e <;> assumption⟩
  rw [hcount, ← List.length_eq_zero_iff, ← List.length_eq_zero_iff, backlog]
  omega

/-- Taking an event onto a level at which no handler runs makes the backlog shorter: the event counts for four and its handler has at
most three commands. -/
theorem backlog_takeEvent_lt {s : State} {e : Event} (p : Pick) (he : 0 < s.host.pend.count e) (hhigh : s.host.high = [])
    (hlow : level s.cfg.hostVariant e = .low → s.host.low = []) : backlog (takeEvent p e s) < backlog s := by
  have hlength := handler_length_le p.highFirst s e
  have htotal := Pending.total_setCount_pred he
  rw [backlog, backlog, takeEvent_host_pend, hhigh]
  cases hlevel : level s.cfg.hostVariant e with
  | high =>
    obtain ⟨hhigh', hlow'⟩ := takeEvent_host_of_high (p := p) hlevel
    rw [hhigh', hlow', List.length_nil]
    omega
  | low =>
    obtain ⟨hlow', hhigh'⟩ := takeEvent_host_of_low (p := p) hlevel
    rw [hhigh', hlow', hhigh, hlow hlevel, List.length_nil]
    omega

/-- Every move of a host that is up makes the backlog shorter, until there is none. -/
theorem hostMove_backlog_le {p : Pick} {s t : State} (hup : s.host.up = true) (h : hostMove p s = .next t) :
    backlog t ≤ backlog s - 1 := by
  obtain ⟨hdown, -⟩ | ⟨-, c, rest, hhigh, hm⟩ | ⟨-, hhigh, e, he, hm⟩ | ⟨-, -, -, c, rest, hlow, hm⟩ |
    ⟨-, hhigh, -, hlow, e, he, hm⟩ | ⟨-, hhigh, hw, hlow, hwl, hm⟩ := hostMove_cases p s
  case inl => exact Bool.noConfusion (hup.symm.trans hdown)
  all_goals rw [hm] at h
  · obtain ⟨b, rfl⟩ := exec_next_withBlock h
    simp only [backlog, State.withBlock_host, State.withHost_host, hhigh, List.length_cons]
    omega
  · cases h
    obtain ⟨hlevel, hcount⟩ := mem_waiting_iff.1 he
    exact Nat.le_pred_of_lt (backlog_takeEvent_lt p hcount hhigh (hlevel ▸ nofun))
  · obtain ⟨b, rfl⟩ := exec_next_withBlock h
    simp only [backlog, State.withBlock_host, State.withHost_host, hlow, List.length_cons]
    omega
  · cases h
    exact Nat.le_pred_of_lt (backlog_takeEvent_lt p (mem_waiting_iff.1 he).2 hhigh fun _ => hlow)
  · cases h
    have hcount : ∀ e, s.host.pend.count e = 0 := fun e => by
      cases hlevel : level s.cfg.hostVariant e with
      | high => exact waiting_eq_nil_iff.1 hw e hlevel
      | low => exact waiting_eq_nil_iff.1 hwl e hlevel
    exact (backlog_eq_zero_iff.2 ⟨hhigh, hlow, hcount⟩).trans_le (Nat.zero_le _)

/-- The documented host is up over a machine that meets the invariants, and nothing more arrives. -/
structure Undisturbed (s : State) : Prop where
  machine : MachineInv s
  host : HostInv s
  paired : Paired s.cfg
  up : s.host.up = true
  inputs : s.inputs = []

section
variable {s : State}

theorem Undisturbed.step_completes (h : Undisturbed s) : ∃ t, step s = .next t ∧ Undisturbed t ∧ backlog t ≤ backlog s - 1 := by
  obtain ⟨t, ht, hhost⟩ := h.host.hostMove_completes h.machine h.paired (pickNow s)
  have hstep := (step_of_no_inputs h.machine.valid h.inputs).trans ht
  obtain ⟨hin, hup⟩ := hostMove_next_frame ht
  exact ⟨t, hstep, ⟨step_keeps_machineInv h.machine hstep, hhost, (step_next_cfg hstep).symm ▸ h.paired, hup, hin.trans h.inputs⟩,
    hostMove_backlog_le h.up ht⟩

theorem Undisturbed.run_completes {k : Nat} (h : Undisturbed s) (hk : backlog s ≤ k) :
    ∃ t, core.run k s = .next t ∧ backlog t = 0 := by
  induction k generalizing s with
  | zero => exact ⟨s, rfl, Nat.le_zero.1 hk⟩
  | succ k ih =>
    obtain ⟨u, hu, hundisturbed, hless⟩ := h.step_completes
    obtain ⟨t, ht, hzero⟩ := ih hundisturbed (by omega)
    exact ⟨t, (run_succ_of_next (M := core) hu k).trans ht, hzero⟩

end

end Sys2Proof.Safety

namespace Sys2Proof.Proofs

open Sys2Proof.Machine Sys2Proof.Safety

/-- Settles O58: every step completes and makes the backlog shorter, until there is none. -/
theorem backlogIsServed : Obligations.BacklogIsServed := by
  intro s hmachine hhost hpair hup hin
  obtain ⟨t, ht, hzero⟩ := Undisturbed.run_completes ⟨hmachine, hhost, hpair, hup, hin⟩ le_rfl
  exact ⟨t, ht, backlog_eq_zero_iff.1 hzero⟩

/-- Settles O48: with nothing arriving the step is the host's move, and each clause is one of the moves. -/
theorem hostPriorityOrder : Obligations.HostPriorityOrder := by
  intro s hv hup hin
  have hstep := step_of_no_inputs hv hin
  refine ⟨fun _ _ => step_of_high hv hup hin, fun hhigh hwait => ?takeHigh, fun hhigh hnone => ?noneHigh⟩
  case takeHigh =>
    obtain ⟨e, he, hm⟩ := hostMove_of_waiting_high hup hhigh (pickNow s) (waiting_ne_nil_iff.2 hwait)
    obtain ⟨hlevel, hcount⟩ := mem_waiting_iff.1 he
    exact ⟨e, _, hlevel, hcount, hstep.trans hm, rfl, (takeEvent_host_of_high hlevel).2, takeEvent_block _ e s⟩
  case noneHigh =>
    have hw := waiting_eq_nil_iff.2 hnone
    refine ⟨fun _ _ hlow => hstep.trans (hostMove_of_low hup hhigh _ hw hlow), fun hlow hwait => ?takeLow,
      fun hlow hcount => hstep.trans (hostMove_of_idle hup hhigh _ hw hlow (waiting_eq_nil_of_count_zero hcount .low))⟩
    obtain ⟨e, he, hm⟩ := hostMove_of_waiting_low hup hhigh (pickNow s) hw hlow (waiting_ne_nil_iff.2 hwait)
    obtain ⟨hlevel, hcount⟩ := mem_waiting_iff.1 he
    exact ⟨e, _, hlevel, hcount, hstep.trans hm, rfl, (takeEvent_host_of_low hlevel).2.trans hhigh, takeEvent_block _ e s⟩

/-- Settles O49: the one HIGH event of the direct variant is the tick, whose handler is TICK alone. -/
theorem positionHasWritersAtOneLevel : Obligations.PositionHasWritersAtOneLevel := by
  have hdirect : ∀ e, level .direct e = .high ↔ e = .tick := fun e => by cases e <;> simp [level]
  refine ⟨fun e => ⟨level_sweep e, hdirect e⟩, fun p s e hv he => ?highEvent, fun p s e hv => (takeEvent_host_of_sweep hv p e).2⟩
  case highEvent =>
    obtain rfl := (hdirect e).1 he
    rw [handler_direct_tick hv]
    exact List.forall_mem_singleton.2 fun q => ⟨nofun, nofun⟩

/-- Settles O50: the step is `arrive`, which writes the source's own count as `kept` says. -/
theorem eventArrival : Obligations.EventArrival := by
  intro s e rest hv hin old
  have hcount := fun e' => arrive_pend_count e e' (s.withInputs rest)
  refine ⟨_, step_of_event hv hin, rfl, rfl, rfl, rfl, rfl, rfl, rfl, rfl, fun e' hne => (hcount e').trans (if_neg hne),
    fun hmasked => ?masked, fun hfree => ?free, s.host.masked_high_iff, s.host.masked_low_iff⟩
  case masked => rw [hcount e, if_pos rfl, State.withInputs_host, State.withInputs_cfg, hmasked, kept_masked]
  case free => rw [hcount e, if_pos rfl, State.withInputs_host, State.withInputs_cfg, hfree, kept_free]

/-- Settles O51: in the direct variant the tick's handler is TICK, in the sweep variant the commands of SweepTick's load. -/
theorem tickEventIssuesOneTick : Obligations.TickEventIssuesOneTick := by
  intro p s h load
  have hdirect : s.cfg.hostVariant = .direct → h.high = [.tick] ∧ h.sweep = s.host.sweep := fun hv =>
    ⟨(takeEvent_direct_tick hv p).1, takeEvent_host_sweep_of_direct hv p .tick⟩
  have hsweep := fun hv : s.cfg.hostVariant = .sweep =>
    takeEvent_sweep_tick hv (Prod.mk.eta (p := s.host.sweep.onTick s.block.pos.toInt)).symm p
  have hhigh : level s.cfg.hostVariant .tick = .high := by cases s.cfg.hostVariant <;> rfl
  have hpend : h.pend = s.host.pend.setCount .tick (s.host.pend.count .tick - 1) := takeEvent_host_pend p .tick s
  refine ⟨hdirect, fun hv => ⟨(hsweep hv).1, fun ho => ?controllerFirst, fun ho => ?sequencerFirst⟩, ?one,
    (takeEvent_host_of_high hhigh).2, by rw [hpend]; rfl, by rw [hpend]; rfl, by rw [hpend]; rfl⟩
  case controllerFirst => rw [(hsweep hv).2, ho, tickCommands]
  case sequencerFirst => rw [(hsweep hv).2, ho, tickCommands]
  case one =>
    cases hv : s.cfg.hostVariant with
    | direct =>
      rw [(hdirect hv).1]
      rfl
    | sweep => rw [(hsweep hv).2, tickCount_tickCommands]

/-- Settles O52: the host's start is INIT over the host's own share; the handlers issue host commands alone, and INIT is none; no move
takes the host down. -/
theorem initializeComesFirst : Obligations.InitializeComesFirst := by
  refine ⟨fun s hv hdown hin => ?first, fun p s e i hi => ?noInit, fun s t => step_next_up⟩
  case first =>
    have hstep := (step_of_no_inputs hv hin).trans ((hostMove_of_down hdown _).trans (initializeAll_of_valid hv))
    obtain ⟨hpend, hhigh, hlow, hspeed, hdir⟩ := s.host.initialized_frame s.cfg.hostVariant
    refine ⟨_, hstep, s.host.initialized_up _, resetBlock_eq s.cfg, rfl, hpend, hhigh, hlow, fun hsweep => ?stopped, hspeed, hdir⟩
    rw [hsweep]
    exact ⟨rfl, rfl⟩
  case noInit =>
    have hvalid : Config.profileF.Valid := by decide
    exact (hostCommand_handler hvalid (fun _ => rfl) p.highFirst e i hi).ne_init

end Sys2Proof.Proofs
end

section
/-! PROOFS. Reset and hazards (70_reset_and_hazards.md): INIT and reset (R134), the first pulse after reset (R137), the outputs between
pulses (R140), and a tick that meets a split load (R141). -/

namespace Sys2Proof.Machine

/-! ### A tick outside the pulse slot -/

section
variable {s : State} (hv : s.cfg.Valid) (hl : s.block.live = true) (h0 : s.block.slot ≠ 0)
include hv hl h0

/-- Outside the pulse slot TICK clears both outputs, in either mode (R59, R61). -/
theorem exec_tick_of_slot_ne_zero : exec .tick s = .next (s.withBlock (s.block.setOut 0 0).advance) := by
  rw [exec_tick_of_inRange hv hl fun _ h => absurd h h0, Block.rendered, if_neg h0]

/-- A LOADP and the TICK after it, outside the pulse slot: LOADP leaves the slot as it is, and TICK clears the outputs (R140). -/
theorem exec_tick_after_loadp {p : Int} {t : State} (h : exec (.loadp p) s = .next t) :
    ∃ u, exec .tick t = .next u ∧ pwmH u = 0 ∧ pwmL u = 0 := by
  have hslot : t.block.slot ≠ 0 := (exec_next_slot h).trans_ne h0
  exact ⟨_, exec_tick_of_slot_ne_zero (exec_next_cfg h ▸ hv) (exec_next_live h hl) hslot, rfl, rfl⟩

end

section
variable {s : State} {cs : List Instr} {b : Block} (hv : s.cfg.Valid) (h : execs cs s = .next (s.withBlock b))
  (hl : b.live = true) (h0 : b.slot ≠ 0)
include hv h hl h0

/-- After commands that leave the slot outside the pulse slot, TICK clears the outputs of the block they leave (R141). -/
theorem execs_append_tick_cons (is : List Instr) :
    execs (cs ++ .tick :: is) s = execs is (s.withBlock (b.setOut 0 0).advance) := by
  rw [execs_append_of_next h, execs, exec_tick_of_slot_ne_zero (s := s.withBlock b) hv hl h0]
  rfl

variable {q : Int} (hm : s.cfg.encMode = .fine) (hpos : b.intPos = q) (hq : s.cfg.InRange q)
include hm hpos hq

theorem execs_append_tick_ench :
    execs (cs ++ [.tick, .ench]) s =
      .next (s.withBlock ((b.setOut 0 0).advance.writeHigh (highOf (dutyNat s.cfg q)))) :=
  (execs_append_tick_cons hv h hl h0 [.ench]).trans (execs_cons_next_iff.2
    ⟨_, exec_ench_fine (s := s.withBlock (b.setOut 0 0).advance) hv hl hm hpos hq, rfl⟩)

theorem execs_append_tick_encl :
    execs (cs ++ [.tick, .encl]) s =
      .next (s.withBlock ((b.setOut 0 0).advance.writeLow (lowOf (dutyNat s.cfg q)))) :=
  (execs_append_tick_cons hv h hl h0 [.encl]).trans (execs_cons_next_iff.2
    ⟨_, exec_encl_fine (s := s.withBlock (b.setOut 0 0).advance) hv hl hm hpos hq, rfl⟩)

end

/-! ### Runs of the machine's steps -/

/-- A step adds nothing to what the outside world is going to do (R11). -/
theorem step_next_inputs_subset {s t : State} (h : step s = .next t) : t.inputs ⊆ s.inputs := by
  obtain ⟨-, ⟨-, h⟩ | ⟨i, rest, hin, h⟩⟩ := step_next_iff.1 h
  · exact (hostMove_next_frame h).1 ▸ List.Subset.refl s.inputs
  · have hrest : t.inputs = rest := by
      cases i with
      | port e =>
        obtain ⟨b, rfl⟩ := onEdge_next_withBlock h
        rfl
      | event e =>
        cases h
        rfl
      | quiet => exact (hostMove_next_frame h).1
    rw [hin, hrest]
    exact List.subset_cons_self i rest

/-- What every step keeps holds all along a run. -/
theorem run_keeps_of_step {M : Host.Core} {I : M.State → Prop} (hstep : ∀ s t, I s → M.step s = .next t → I t) {k : Nat}
    {s u : M.State} (hs : I s) (h : M.run k s = .next u) : I u := by
  induction k generalizing s with
  | zero =>
    cases h
    exact hs
  | succ k ih =>
    obtain ⟨v, hv, h⟩ := run_succ_next_iff.1 h
    exact ih (hstep s v hs hv) h

end Sys2Proof.Machine

namespace Sys2Proof.Safety

open Sys2Proof.Machine

/-! ### Counting steps -/

section
variable {P : State → Bool} {s t : State}

theorem stepsWith_succ_of_next (h : step s = .next t) (k : Nat) :
    stepsWith P (k + 1) s = (if P s then 1 else 0) + stepsWith P k t := by
  rw [stepsWith, h]

theorem stepsWith_succ_of_stopped (h : ∀ t, step s ≠ .next t) (k : Nat) : stepsWith P (k + 1) s = 0 := by
  rw [stepsWith]
  cases hs : step s with
  | next t => exact absurd hs (h t)
  | fault f => rfl
  | refused r => rfl

theorem stepsWith_eq_zero {n : Nat} (h : ∀ k u, k < n → core.run k s = .next u → P u = false) : stepsWith P n s = 0 := by
  induction n generalizing s with
  | zero => rfl
  | succ n ih =>
    by_cases hgo : ∃ t, step s = .next t
    · obtain ⟨t, ht⟩ := hgo
      have hfirst : P s = false := h 0 s (Nat.zero_lt_succ n) rfl
      have hrest : stepsWith P n t = 0 := ih fun k u hk hu =>
        h (k + 1) u (Nat.succ_lt_succ hk) ((run_succ_of_next (M := core) ht k).trans hu)
      rw [stepsWith_succ_of_next ht, hfirst, hrest]
      rfl
    · exact stepsWith_succ_of_stopped (not_exists.1 hgo) n

end

/-! ### The command that a step issues -/

/-- The next thing that happens is the host's own move (R110). -/
def HostsTurn (s : State) : Prop := s.inputs = [] ∨ ∃ rest, s.inputs = .quiet :: rest

section
variable {s : State} (hturn : HostsTurn s) (hup : s.host.up = true)
include hturn hup

theorem issued_of_high {i : Instr} {rest : List Instr} (hhigh : s.host.high = i :: rest) : issued s = some i := by
  obtain hin | ⟨is, hin⟩ := hturn <;> simp [issued, hin, hup, hhigh]

theorem issued_of_waiting_high (hhigh : s.host.high = []) (hw : waiting s .high ≠ []) : issued s = none := by
  obtain hin | ⟨is, hin⟩ := hturn <;> simp [issued, hin, hup, hhigh, hw]

theorem issued_of_no_high (hhigh : s.host.high = []) (hw : waiting s .high = []) : issued s = s.host.low.head? := by
  obtain hin | ⟨is, hin⟩ := hturn <;> simp [issued, hin, hup, hhigh, hw]

end

/-- From `s` to `t` nothing is issued and the block is left alone, or the command that `issued` names, one of a handler in progress, is
executed over the block of `s`. -/
def ByIssued (s t : State) : Prop :=
  (issued s = none ∧ t.block = s.block) ∨
  ∃ i u, issued s = some i ∧ (i ∈ s.host.high ∨ i ∈ s.host.low) ∧ u.block = s.block ∧ exec i u = .next t

theorem hostMove_byIssued {s t : State} {p : Pick} {rest : List Input} (hturn : HostsTurn s) (hup : s.host.up = true)
    (h : hostMove p (s.withInputs rest) = .next t) : ByIssued s t := by
  obtain ⟨hdown, -⟩ | ⟨-, c, cs, hhigh, hm⟩ | ⟨-, hhigh, e, he, hm⟩ | ⟨-, hhigh, hw, c, cs, hlow, hm⟩ |
    ⟨-, hhigh, hw, hlow, e, -, hm⟩ | ⟨-, hhigh, hw, hlow, -, hm⟩ := hostMove_cases p (s.withInputs rest)
  case inl => exact Bool.noConfusion (hup.symm.trans hdown)
  all_goals
    rw [hm] at h
    rw [State.withInputs_host] at hhigh
  · exact .inr ⟨c, (s.withInputs rest).withHost _, issued_of_high hturn hup hhigh, .inl (hhigh ▸ List.mem_cons_self), rfl, h⟩
  · cases h
    exact .inl ⟨issued_of_waiting_high hturn hup hhigh (List.ne_nil_of_mem he), rfl⟩
  all_goals
    have hissued := issued_of_no_high hturn hup hhigh hw
    rw [State.withInputs_host] at hlow
    rw [hlow] at hissued
  · exact .inr ⟨c, (s.withInputs rest).withHost _, hissued, .inr (hlow ▸ List.mem_cons_self), rfl, h⟩
  · cases h
    exact .inl ⟨hissued, rfl⟩
  · cases h
    exact .inl ⟨hissued, rfl⟩

/-- With no port edge from outside a step executes the command that `issued` names, or none. -/
theorem step_byIssued {s t : State} (hd : HostDriven s) (hup : s.host.up = true) (h : step s = .next t) : ByIssued s t := by
  obtain ⟨-, ⟨hin, h⟩ | ⟨i, rest, hin, h⟩⟩ := step_next_iff.1 h
  · exact hostMove_byIssued (rest := s.inputs) (.inl hin) hup h
  · cases i with
    | port e => exact absurd hin (hd e rest)
    | event e =>
      cases h
      exact .inl ⟨by simp only [issued, hin], rfl⟩
    | quiet => exact hostMove_byIssued (.inr ⟨rest, hin⟩) hup h

/-! ### No handler issues INIT -/

theorem HighPhase.init_not_mem {v : HostVariant} {high : List Instr} (h : HighPhase v high) : Instr.init ∉ high := by
  induction high with
  | nil => exact List.not_mem_nil
  | cons i rest ih =>
    obtain ⟨hrest, hi⟩ := h.cons
    refine List.not_mem_cons_of_ne_of_not_mem ?_ (ih hrest)
    obtain rfl | ⟨-, q, rfl⟩ := hi <;> exact Instr.noConfusion

theorem LowPhase.init_not_mem {c : Config} {b : Block} {low : List Instr} (h : LowPhase c b low) : Instr.init ∉ low := by
  obtain ⟨rfl, -⟩ | ⟨⟨q, rfl⟩, -⟩ | ⟨⟨q, rfl | rfl⟩, -⟩ | (rfl | rfl) | ⟨rfl, -⟩ | ⟨rfl, -⟩ := h <;> simp

/-! ### Torn pulses of the documented host -/

/-- The documented host is up over a block in FINE mode, keeps `TornInv`, and no port edge comes from outside. -/
structure FineHost (s : State) : Prop where
  tornInv : TornInv s
  up : s.host.up = true
  fine : s.cfg.encMode = .fine
  noPort : ∀ e, Input.port e ∉ s.inputs

section
variable {s t : State}

theorem FineHost.hostDriven (h : FineHost s) : HostDriven s := fun e _ hin => h.noPort e (hin ▸ List.mem_cons_self)

theorem FineHost.step_next (h : FineHost s) (ht : step s = .next t) : FineHost t where
  tornInv := step_keeps_tornInv h.tornInv h.hostDriven ht
  up := step_next_up h.up ht
  fine := step_next_cfg ht ▸ h.fine
  noPort e he := h.noPort e (step_next_inputs_subset ht he)

/-- The slot moves on exactly when the step executes a TICK: no handler issues INIT (R64). -/
theorem FineHost.step_next_slot (h : FineHost s) (ht : step s = .next t) :
    t.block.slot.val = if ticks s then (s.block.slot.val + 1) % 10 else s.block.slot.val := by
  obtain ⟨hissued, hblock⟩ | ⟨i, u, hissued, hmem, hblock, hexec⟩ := step_byIssued h.hostDriven h.up ht
  · simp [ticks, hissued, hblock]
  · have hinit : i ≠ .init := by
      rintro rfl
      obtain hmem | hmem := hmem
      · exact h.tornInv.high.init_not_mem hmem
      · exact (h.tornInv.low (h.tornInv.up_live h.up) h.fine).init_not_mem hmem
    have hticks : ticks s = true ↔ i = .tick := by simp [ticks, hissued]
    rw [exec_next_slot hexec, hblock, if_neg hinit, ← nextSlot_val]
    simp only [hticks]
    split <;> rfl

/-- With no LOW handler in progress the pair is whole (R141). -/
theorem FineHost.not_emitsTornPulse (h : FineHost s) (hlow : s.host.low = []) : emitsTornPulse s = false := by
  have hwhole : ¬ torn s.cfg s.block := (hlow ▸ h.tornInv.low (h.tornInv.up_live h.up) h.fine).not_torn
  simp [emitsTornPulse, hwhole]

theorem emitsTornPulse_of_coarse (hm : s.cfg.encMode = .coarse) : emitsTornPulse s = false := by
  simp [emitsTornPulse, hm]

theorem ticks_and_slot_of_emitsTornPulse (h : emitsTornPulse s = true) : ticks s = true ∧ s.block.slot.val = 0 := by
  simp only [emitsTornPulse, Bool.and_eq_true, beq_iff_eq] at h
  obtain ⟨⟨⟨hticks, hslot⟩, -⟩, -⟩ := h
  exact ⟨hticks, congrArg Fin.val hslot⟩

/-- Of the TICKs within the first `m` steps those at slot 0 are one for each multiple of 10 that the slot's count meets before it moves
on, as in R64; and after these steps, with no LOW handler in progress, no pair is torn. -/
theorem FineHost.tornPulses_le {m j : Nat} (h : FineHost s)
    (hidle : ∀ k u, m ≤ k → k < m + j → core.run k s = .next u → u.host.low = []) :
    stepsWith emitsTornPulse (m + j) s + (s.block.slot.val + 9) / 10 ≤
      (s.block.slot.val + stepsWith ticks m s + 9) / 10 := by
  induction m generalizing s with
  | zero =>
    have hnone : stepsWith emitsTornPulse (0 + j) s = 0 := stepsWith_eq_zero fun k u hk hu =>
      have hfine : FineHost u := run_keeps_of_step (M := core) (fun _ _ => FineHost.step_next) h hu
      hfine.not_emitsTornPulse (hidle k u k.zero_le hk hu)
    rw [hnone, stepsWith]
    omega
  | succ m ih =>
    rw [Nat.succ_add]
    by_cases hgo : ∃ t, step s = .next t
    · obtain ⟨t, ht⟩ := hgo
      have hrest := ih (h.step_next ht) fun k u hmk hk hu => hidle (k + 1) u (Nat.succ_le_succ hmk) (by omega)
        ((run_succ_of_next (M := core) ht k).trans hu)
      have hlt := s.block.slot.isLt
      rw [h.step_next_slot ht] at hrest
      rw [stepsWith_succ_of_next ht, stepsWith_succ_of_next ht]
      cases hemits : emitsTornPulse s with
      | true =>
        obtain ⟨hticks, hslot⟩ := ticks_and_slot_of_emitsTornPulse hemits
        simp only [hticks, if_true] at hrest ⊢
        omega
      | false =>
        cases hticks : ticks s with
        | true =>
          simp only [hticks, Bool.false_eq_true, if_true, if_false] at hrest ⊢
          omega
        | false =>
          simp only [hticks, Bool.false_eq_true, if_false] at hrest ⊢
          omega
    · rw [stepsWith_succ_of_stopped (not_exists.1 hgo), stepsWith_succ_of_stopped (not_exists.1 hgo)]
      omega

end

end Sys2Proof.Safety

namespace Sys2Proof.Proofs

open Sys2Proof.Machine Sys2Proof.Safety

/-- Settles O57: ten TICKs meet the pulse slot once, and outside a LOW handler the stored pair is whole. -/
theorem tornPulsesPerButtonPress : Obligations.TornPulsesPerButtonPress := by
  intro n m s _ _ htorn hup hport hmn hidle hticks
  cases hm : s.cfg.encMode with
  | coarse =>
    have hnone : stepsWith emitsTornPulse n s = 0 := stepsWith_eq_zero fun k u _ hu =>
      emitsTornPulse_of_coarse (run_keeps_of_step (M := core) (I := fun v => v.cfg.encMode = .coarse)
        (fun _ _ hs ht => step_next_cfg ht ▸ hs) hm hu)
    omega
  | fine =>
    obtain ⟨j, rfl⟩ := Nat.exists_eq_add_of_le hmn
    have hbound := FineHost.tornPulses_le ⟨htorn, hup, hm, hport⟩ hidle
    omega

/-- Settles O29: the TICK clears both outputs and keeps the stored field that was written before it; the second field command makes the
pair whole and writes its own output alone. -/
theorem tickBetweenFieldCommands : Obligations.TickBetweenFieldCommands := by
  rintro s q ⟨hv, hl⟩ hm h0 hq
  have hpos : (s.block.setPos (posOf q)).intPos = q := intPos_setPos_posOf hv hq
  have hwhole : ∀ b : Block, b.intPos = q → b.sh = highOf (dutyNat s.cfg q) → b.sl = lowOf (dutyNat s.cfg q) →
      ¬ torn s.cfg b := fun b hb hh hlow => not_torn_iff.2 (hb.symm ▸ ⟨hh, hlow⟩)
  exact ⟨⟨_, execs_append_tick_encl hv (execs_setpos_ench hv hl hm hq) hl h0 hm hpos hq, rfl, rfl, hwhole _ hpos rfl rfl⟩,
    ⟨_, execs_append_tick_ench hv (execs_setpos_encl hv hl hm hq) hl h0 hm hpos hq, rfl, rfl, hwhole _ hpos rfl rfl⟩⟩

/-- Settles O30: LOADP writes its fields through in FINE mode alone, and the slot is not the pulse slot when TICK comes. -/
theorem loadWritesThroughUntilNextTick : Obligations.LoadWritesThroughUntilNextTick := by
  rintro s p ⟨hv, hl⟩ hp h0
  refine ⟨fun hm => ?fine, fun hm => ?coarse⟩
  case fine =>
    have hload := exec_loadp_fine hv hl hm hp
    obtain ⟨u, hu, hclear⟩ := exec_tick_after_loadp hv hl h0 hload
    exact ⟨_, u, hload, hu, rfl, rfl, hclear⟩
  case coarse =>
    have hload := exec_loadp_coarse hv hl hm hp
    obtain ⟨u, hu, hclear⟩ := exec_tick_after_loadp hv hl h0 hload
    exact ⟨_, u, hload, hu, rfl, rfl, hclear⟩

/-- Settles O36: the edge is used up and resets the block as INIT does; under broken parameters both are refused. -/
theorem initAndResetLeaveTheSameState : Obligations.InitAndResetLeaveTheSameState := by
  intro s b w
  by_cases hv : s.cfg.Valid
  · have hreset := step_of_rst (s := s.withInputs (.port ⟨true, b, w⟩ :: s.inputs)) hv rfl
    rw [hreset, exec_init_next_iff.2 ⟨hv, rfl⟩, resetBlock_eq]
    rfl
  · have hrefused := step_of_not_valid (s := s.withInputs (.port ⟨true, b, w⟩ :: s.inputs)) hv
    rw [hrefused, exec_of_not_valid hv]

/-- Settles O38: reset loads position 0, and the first TICK finds the pulse slot and renders it. -/
theorem firstPulseIsTheCentre : Obligations.FirstPulseIsTheCentre := by
  intro c hv
  have hload := loaded_resetWith c
  obtain ⟨t, ht, -, hout⟩ := hload.exec_tick hv
  refine ⟨t, ht, fun hm => ?coarse, fun hm => ?fine⟩
  case coarse =>
    obtain ⟨hexact, hle⟩ := dutyNat_coarse hv hm (inRange_zero c)
    obtain ⟨hhigh, hlow⟩ := Prod.mk.inj (hout.trans (hload.rendered_coarse hv hm rfl))
    rw [hhigh, dutyOf_of_le hle]
    exact ⟨by omega, hlow⟩
  case fine =>
    have hexact := (dutyNat_fine hv hm (inRange_zero c)).1
    obtain ⟨hhigh, hlow⟩ := Prod.mk.inj (hout.trans (hload.rendered_fine hm rfl))
    have hraw : rawOf (highOf (dutyNat c 0)) (lowOf (dutyNat c 0)) = dutyNat c 0 := rawOf_fieldsOf _
    rw [hhigh, hlow, ← rawOf_eq, hraw]
    omega

end Sys2Proof.Proofs
end

section
/-! PROOFS. The sample words of 95_test_vectors.md V30: each by its opcode field and, for LOADP and SETPOS, its operand (R45 to R47). -/

namespace Sys2Proof.Proofs

/-- Settles O5: LOADP and SETPOS read their operand from the argument byte; the opcode field alone decides the other seven words. -/
theorem sampleWordsDecode : Obligations.SampleWordsDecode := by
  refine ⟨?nop, ?tick, ?loadpNegative, ?loadpPositive, ?setpos, ?ench, ?encl, ?init, ?rsvd7, ?rsvd15⟩
  case loadpNegative | loadpPositive | setpos => exact decode_eq_iff.2 ⟨rfl, rfl⟩
  all_goals exact decode_eq_iff.2 ⟨rfl, trivial⟩

end Sys2Proof.Proofs
end
